-- ==== Sys2Proof/Word.lean ====
section
/-! DEFINITION. The sizes of data of `00_scope.md` rules R9 and R13: Byte, Word (16 bits), DWord (32 bits). -/

namespace Sys2Proof

/-- ".B, Byte (8-bit)" (R13). -/
abbrev Byte := BitVec 8

/-- ".W, Word (16-bit)" (R13); also one instruction word (R110). -/
abbrev Word := BitVec 16

/-- ".L, DWord (32-bit)" (R13); every register and every address (R20, R70). -/
abbrev DWord := BitVec 32

end Sys2Proof
end

