-- ==== Sys2Proof/Config.lean ====
section
/-! DEFINITION. The implementation parameters of `00_scope.md` rule R5, as plain data, and the two free values of
the model. A `Config` stands in `State.cfg` and no step changes it, so a claim about every state is a claim about
every value of every parameter (log 1). -/

namespace Sys2Proof

/-- `ENDIAN`: byte order of data and fetch (R72, R73, D1). -/
inductive Endian where
  | little
  | big
  deriving DecidableEq, Repr

/-- `BANK_SELECT`: which SR bits choose Bank B for R0..R7 (R22, D9). -/
inductive BankSelect where
  | mdAndRb
  | mdOnly
  | rbOnly
  deriving DecidableEq, Repr

/-- `CR_BANK_VIEW`: what CR8..CR15 name (R44, D10). -/
inductive CrBankView where
  | literalB
  | inactive
  deriving DecidableEq, Repr

/-- `BRAN_DISP8`: how `BRA/N` extends its displacement (R209, D25). -/
inductive BranDisp8 where
  | zeroExtended
  | signExtended
  deriving DecidableEq, Repr

/-- What a region of `MEM_MAP` holds (R79): memory, which returns the last value written, or a device, whose values
are the platform's. -/
inductive RegionKind where
  | memory
  | device
  deriving DecidableEq, Repr

/-- One region of `MEM_MAP`: the byte addresses from `base` up to `base + size - 1` (R79). -/
structure Region where
  base : Nat
  size : Nat
  kind : RegionKind
  deriving DecidableEq, Repr

/-- `CAUSE_CODES`: the code of each exception kind (R422). No instruction can observe one (R432).
`interrupt[L]` is the code of an interrupt of level L. -/
structure CauseCodes where
  interrupt : Vector DWord 16
  trapa : DWord
  breakpoint : DWord
  illegal : DWord
  slotIllegal : DWord
  addressRead : DWord
  addressWrite : DWord
  deriving DecidableEq, Repr

/-- The parameters of R5. -/
structure Config where
  /-- `ENDIAN` -/
  endian : Endian
  /-- `VEC_GENERAL`, OPEN (R431) -/
  vecGeneral : DWord
  /-- `VEC_INTERRUPT`, OPEN (R431) -/
  vecInterrupt : DWord
  /-- `RESET_PC`, OPEN (R470) -/
  resetPc : DWord
  /-- `RESET_SR`, OPEN (R470) -/
  resetSr : DWord
  /-- `RESET_VBR`, OPEN (R470) -/
  resetVbr : DWord
  /-- `SR_WRITE_MASK` (R41) -/
  srWriteMask : DWord
  /-- `BANK_SELECT` -/
  bankSelect : BankSelect
  /-- `CR_BANK_VIEW` -/
  crBankView : CrBankView
  /-- `HAS_FPU_REGS` (R45) -/
  hasFpuRegs : Bool
  /-- `PRIV_CHECK` (R164) -/
  privCheck : Bool
  /-- `BRAN_DISP8` -/
  branDisp8 : BranDisp8
  /-- `ICACHE_LINE`, in bytes (R86) -/
  icacheLine : Nat
  /-- `CAUSE_CODES`, OPEN (R422) -/
  causeCodes : CauseCodes
  /-- `MEM_MAP`, OPEN (R79) -/
  memMap : List Region
  deriving DecidableEq, Repr

/-- The suggested codes of the last column of R422. -/
def CauseCodes.suggested : CauseCodes where
  interrupt := #v[0x3E0, 0x3C0, 0x3A0, 0x380, 0x360, 0x340, 0x320, 0x300,
                  0x2E0, 0x2C0, 0x2A0, 0x280, 0x260, 0x240, 0x220, 0x200]
  trapa := 0x160
  breakpoint := 0x1E0
  illegal := 0x180
  slotIllegal := 0x1A0
  addressRead := 0x0E0
  addressWrite := 0x100

/-- The value column of R5: the spec's default where it has one; for an OPEN parameter the value R5 suggests for
simulation (PRESUMED, the family's: log 2, log 3); for `MEM_MAP` memory at every address (DESIGN CHOICE: log 7). -/
def Config.suggested : Config where
  endian := .little
  vecGeneral := 0x100
  vecInterrupt := 0x600
  resetPc := 0xA0000000
  resetSr := 0x700000F0
  resetVbr := 0
  srWriteMask := 0x700083F3
  bankSelect := .mdAndRb
  crBankView := .literalB
  hasFpuRegs := false
  privCheck := true
  branDisp8 := .zeroExtended
  icacheLine := 2
  causeCodes := CauseCodes.suggested
  memMap := [{ base := 0, size := 0x100000000, kind := .memory }]

/-- What the spec says of the parameters' values: vector offsets even (D15), reserved bits of `RESET_SR` zero
(R471), `ICACHE_LINE` a power of two not below 2 (R86). -/
def Config.wf (c : Config) : Bool :=
  !c.vecGeneral.getLsbD 0 && !c.vecInterrupt.getLsbD 0
    && (c.resetSr &&& ~~~c.srWriteMask == 0#32)
    && (2 ≤ c.icacheLine && c.icacheLine == 2 ^ c.icacheLine.log2)

/-- What `MEM_MAP` holds at a byte address: the first region that contains it (R79; log 40). -/
def Config.kindAt (c : Config) (a : Nat) : Option RegionKind :=
  (c.memMap.find? fun r => r.base ≤ a && a < r.base + r.size).map (·.kind)

/-- A free value: the byte an address holds after reset, before anything writes it. R50 gives
memory no value at reset ("quantifies over every value (a draw)", "never picks zero"); nothing can be proved of it
(log 5). -/
opaque Config.initialByte : DWord → Byte

/-- A free value: what a device delivers to a read before which `n` accesses reached devices, where the platform's
input (`State.deviceInput`) is used up. R79 and U59 of file 93 give it "any value from the platform oracle"; nothing can
be proved of it (log 46). -/
opaque Config.deviceValue (n : Nat) : DWord

end Sys2Proof
end

