-- ==== Sys2Proof/Syntax.lean ====
section
/-! DEFINITION. The instructions: one constructor per row of `spec/opcode_table.json` (the opcode map of
`30_encoding.md` rule R116), each field at the width its encoding gives it. Operands stand in the order of the
assembly syntax, source first (R140); a field's letter is the row's. -/

namespace Sys2Proof

/-- A 4-bit field that names one of R0..R15 (R112). -/
abbrev Reg := BitVec 4

/-- A 4-bit field that is an index of the table of system registers SYS (R43, R112). -/
abbrev SysIdx := BitVec 4

/-- A 4-bit field that is an index of the table of control registers CR (R44, R112). -/
abbrev CtrlIdx := BitVec 4

/-- An instruction (R116). -/
inductive Instr where
  -- 40_system_registers.md: system and control registers, flags, NOP
  /-- `STC CRm, Rn`, 0nm2, R165. -/
  | stc (m : CtrlIdx) (n : Reg)
  /-- `STS SRm, Rn`, 0nmA, R166. -/
  | sts (m : SysIdx) (n : Reg)
  /-- `STS.L SRm, @-Rn`, 4nm2, R167. -/
  | stsl (m : SysIdx) (n : Reg)
  /-- `STC.L CRm, @-Rn`, 4nm3, R168. -/
  | stcl (m : CtrlIdx) (n : Reg)
  /-- `LDS.L @Rm+, SRo`, 4mo6, R169. -/
  | ldsl (m : Reg) (o : SysIdx)
  /-- `LDC.L @Rm+, CRo`, 4mo7, R170. -/
  | ldcl (m : Reg) (o : CtrlIdx)
  /-- `LDS Rm, SRo`, 4moA, R171. -/
  | lds (m : Reg) (o : SysIdx)
  /-- `LDC Rm, CRo`, 4moE, R172. -/
  | ldc (m : Reg) (o : CtrlIdx)
  /-- `CLRT`, 0008, R173. -/
  | clrt
  /-- `SETT`, 0018, R174. -/
  | sett
  /-- `CLRMAC`, 0028, R175. -/
  | clrmac
  /-- `CLRS`, 0048, R176. -/
  | clrs
  /-- `SETS`, 0058, R177. -/
  | sets
  /-- `NOTT`, 0068, R178. -/
  | nott
  /-- `NOP`, 0i09, R179. -/
  | nop (i : BitVec 4)
  /-- `MOVT Rn`, 0n29, R180. -/
  | movt (n : Reg)
  /-- `MOVRT Rn`, 0n39, R181. -/
  | movrt (n : Reg)
  -- 41_branch.md: control transfer
  /-- `BSRF Rm`, 0m03, R203. -/
  | bsrf (m : Reg)
  /-- `BRAF Rm`, 0m23, R204. -/
  | braf (m : Reg)
  /-- `RTS`, 000B, R205. -/
  | rts
  /-- `RTS/N`, 006B, R206. -/
  | rtsN
  /-- `JSR Rm`, 4m0B, R207. -/
  | jsr (m : Reg)
  /-- `JMP Rm`, 4m2B, R208. -/
  | jmp (m : Reg)
  /-- `BRA/N disp8`, 82dd, R209. -/
  | braN (d : BitVec 8)
  /-- `BT label`, 89dd, R210. -/
  | bt (d : BitVec 8)
  /-- `BF label`, 8Bdd, R211. -/
  | bf (d : BitVec 8)
  /-- `BTS label`, 8Ddd, R212. -/
  | bts (d : BitVec 8)
  /-- `BFS label`, 8Fdd, R213. -/
  | bfs (d : BitVec 8)
  /-- `BRA label`, Addd, R214. -/
  | bra (d : BitVec 12)
  /-- `BSR label`, Bddd, R215. -/
  | bsr (d : BitVec 12)
  -- 42_cache_atomic.md: cache instructions and compare-and-exchange
  /-- `PREF @Rn`, 0n83, R230. -/
  | pref (n : Reg)
  /-- `MOVCA.L R0, @Rn`, 0nC3, R231. -/
  | movcal (n : Reg)
  /-- `ICBI @Rn`, 0nE3, R232. -/
  | icbi (n : Reg)
  /-- `CAS.L Rm, Rn, @R0`, 2nm3, R233. -/
  | casl (m n : Reg)
  -- 43_data_transfer.md: data transfer
  /-- `MOV.B Rm, @(R0,Rn)`, 0nm4, R241. -/
  | movbStoreR0 (m n : Reg)
  /-- `MOV.W Rm, @(R0,Rn)`, 0nm5, R242. -/
  | movwStoreR0 (m n : Reg)
  /-- `MOV.L Rm, @(R0,Rn)`, 0nm6, R243. -/
  | movlStoreR0 (m n : Reg)
  /-- `MOV.B @(R0,Rm), Rn`, 0nmC, R244. -/
  | movbLoadR0 (m n : Reg)
  /-- `MOV.W @(R0,Rm), Rn`, 0nmD, R245. -/
  | movwLoadR0 (m n : Reg)
  /-- `MOV.L @(R0,Rm), Rn`, 0nmE, R246. -/
  | movlLoadR0 (m n : Reg)
  /-- `MOV.L Rm, @(Rn,disp)`, 1nmd, R247. -/
  | movlStoreDisp (m n : Reg) (d : BitVec 4)
  /-- `MOV.B Rm, @Rn`, 2nm0, R248. -/
  | movbStore (m n : Reg)
  /-- `MOV.W Rm, @Rn`, 2nm1, R249. -/
  | movwStore (m n : Reg)
  /-- `MOV.L Rm, @Rn`, 2nm2, R250. -/
  | movlStore (m n : Reg)
  /-- `MOV.B Rm, @-Rn`, 2nm4, R251. -/
  | movbStoreDec (m n : Reg)
  /-- `MOV.W Rm, @-Rn`, 2nm5, R252. -/
  | movwStoreDec (m n : Reg)
  /-- `MOV.L Rm, @-Rn`, 2nm6, R253. -/
  | movlStoreDec (m n : Reg)
  /-- `MOV.B Rm, @(PC,R0)`, 4mC1, R254. -/
  | movbStorePc (m : Reg)
  /-- `MOV.W Rm, @(PC,R0)`, 4mD1, R255. -/
  | movwStorePc (m : Reg)
  /-- `MOV.L Rm, @(PC,R0)`, 4mE1, R256. -/
  | movlStorePc (m : Reg)
  /-- `MOV.B @(PC,R0), Rn`, 4nC5, R257. -/
  | movbLoadPc (n : Reg)
  /-- `MOV.W @(PC,R0), Rn`, 4nD5, R258. -/
  | movwLoadPc (n : Reg)
  /-- `MOV.L @(PC,R0), Rn`, 4nE5, R259. -/
  | movlLoadPc (n : Reg)
  /-- `LEA.B @(PC,R0), Rn`, 4nF5, R260. -/
  | leab (n : Reg)
  /-- `MOV.L @(Rm,disp), Rn`, 5nmd, R261. -/
  | movlLoadDisp (m : Reg) (d : BitVec 4) (n : Reg)
  /-- `MOV.B @Rm, Rn`, 6nm0, R262. -/
  | movbLoad (m n : Reg)
  /-- `MOV.W @Rm, Rn`, 6nm1, R263. -/
  | movwLoad (m n : Reg)
  /-- `MOV.L @Rm, Rn`, 6nm2, R264. -/
  | movlLoad (m n : Reg)
  /-- `MOV Rm, Rn`, 6nm3, R265. -/
  | mov (m n : Reg)
  /-- `MOV.B @Rm+, Rn`, 6nm4, R266. -/
  | movbLoadInc (m n : Reg)
  /-- `MOV.W @Rm+, Rn`, 6nm5, R267. -/
  | movwLoadInc (m n : Reg)
  /-- `MOV.L @Rm+, Rn`, 6nm6, R268. -/
  | movlLoadInc (m n : Reg)
  /-- `MOV.B R0, @(Rn,disp4)`, 80nd, R269. -/
  | movbStoreDisp (n : Reg) (d : BitVec 4)
  /-- `MOV.W R0, @(Rn,disp4)`, 81nd, R270. -/
  | movwStoreDisp (n : Reg) (d : BitVec 4)
  /-- `MOV.B @(Rm,disp), R0`, 84md, R271. -/
  | movbLoadDisp (m : Reg) (d : BitVec 4)
  /-- `MOV.W @(Rm,disp), R0`, 85md, R272. -/
  | movwLoadDisp (m : Reg) (d : BitVec 4)
  /-- `MOV.W @(PC,disp), Rn`, 9ndd, R273. -/
  | movwLoadPcDisp (d : BitVec 8) (n : Reg)
  /-- `MOV.B R0, @(GBR,disp)`, C0dd, R274. -/
  | movbStoreGbr (d : BitVec 8)
  /-- `MOV.W R0, @(GBR,disp)`, C1dd, R275. -/
  | movwStoreGbr (d : BitVec 8)
  /-- `MOV.L R0, @(GBR,disp)`, C2dd, R276. -/
  | movlStoreGbr (d : BitVec 8)
  /-- `MOV.B @(GBR,disp), R0`, C4dd, R277. -/
  | movbLoadGbr (d : BitVec 8)
  /-- `MOV.W @(GBR,disp), R0`, C5dd, R278. -/
  | movwLoadGbr (d : BitVec 8)
  /-- `MOV.L @(GBR,disp), R0`, C6dd, R279. -/
  | movlLoadGbr (d : BitVec 8)
  /-- `MOVA @(PC,disp), R0`, C7dd, R280. -/
  | mova (d : BitVec 8)
  /-- `MOV.L @(PC,disp), Rn`, Dndd, R281. -/
  | movlLoadPcDisp (d : BitVec 8) (n : Reg)
  /-- `MOV #imm, Rn`, Enii, R282. -/
  | movImm (i : BitVec 8) (n : Reg)
  -- 44_multiply_divide.md: multiply and divide step
  /-- `MUL.L Rm, Rn`, 0nm7, R300. -/
  | mull (m n : Reg)
  /-- `MULU.W Rm, Rn`, 2nmE, R301. -/
  | muluw (m n : Reg)
  /-- `MULS.W Rm, Rn`, 2nmF, R302. -/
  | mulsw (m n : Reg)
  /-- `DMULU.L Rm, Rn`, 3nm5, R303. -/
  | dmulul (m n : Reg)
  /-- `DMULS.L Rm, Rn`, 3nmD, R304. -/
  | dmulsl (m n : Reg)
  /-- `DIV0U`, 0019, R305. -/
  | div0u
  /-- `DIV0S Rm, Rn`, 2nm7, R306. -/
  | div0s (m n : Reg)
  /-- `DIV1 Rm, Rn`, 3nm4, R307. -/
  | div1 (m n : Reg)
  -- 45_logic_compare.md: logic and compare
  /-- `TST Rm, Rn`, 2nm8, R320. -/
  | tst (m n : Reg)
  /-- `AND Rm, Rn`, 2nm9, R321. -/
  | and (m n : Reg)
  /-- `XOR Rm, Rn`, 2nmA, R322. -/
  | xor (m n : Reg)
  /-- `OR Rm, Rn`, 2nmB, R323. -/
  | or (m n : Reg)
  /-- `NOT Rm, Rn`, 6nm7, R324. -/
  | not (m n : Reg)
  /-- `TST #imm, R0`, C8jj, R325. -/
  | tstImm (j : BitVec 8)
  /-- `AND #imm, R0`, C9jj, R326. -/
  | andImm (j : BitVec 8)
  /-- `XOR #imm, R0`, CAjj, R327. -/
  | xorImm (j : BitVec 8)
  /-- `OR #imm, R0`, CBjj, R328. -/
  | orImm (j : BitVec 8)
  /-- `CMPSTR Rm, Rn`, 2nmC, R329. -/
  | cmpstr (m n : Reg)
  /-- `CMPEQ Rm, Rn`, 3nm0, R330. -/
  | cmpeq (m n : Reg)
  /-- `CMPHS Rm, Rn`, 3nm2, R331. -/
  | cmphs (m n : Reg)
  /-- `CMPGE Rm, Rn`, 3nm3, R332. -/
  | cmpge (m n : Reg)
  /-- `CMPHI Rm, Rn`, 3nm6, R333. -/
  | cmphi (m n : Reg)
  /-- `CMPGT Rm, Rn`, 3nm7, R334. -/
  | cmpgt (m n : Reg)
  /-- `CMPPZ Rn`, 4n11, R335. -/
  | cmppz (n : Reg)
  /-- `CMPPL Rn`, 4n15, R336. -/
  | cmppl (n : Reg)
  /-- `CMPEQ #imm, R0`, 88ii, R337. -/
  | cmpeqImm (i : BitVec 8)
  -- 46_arithmetic.md: arithmetic, extension, rearrangement
  /-- `SUB Rm, Rn`, 3nm8, R350. -/
  | sub (m n : Reg)
  /-- `SUBC Rm, Rn`, 3nmA, R351. -/
  | subc (m n : Reg)
  /-- `SUBV Rm, Rn`, 3nmB, R352. -/
  | subv (m n : Reg)
  /-- `ADD Rm, Rn`, 3nmC, R353. -/
  | add (m n : Reg)
  /-- `ADDC Rm, Rn`, 3nmE, R354. -/
  | addc (m n : Reg)
  /-- `ADDV Rm, Rn`, 3nmF, R355. -/
  | addv (m n : Reg)
  /-- `ADD #imm, Rn`, 7nii, R356. -/
  | addImm (i : BitVec 8) (n : Reg)
  /-- `NEG Rm, Rn`, 6nmB, R357. -/
  | neg (m n : Reg)
  /-- `NEGC Rm, Rn`, 6nmA, R358. -/
  | negc (m n : Reg)
  /-- `DT Rn`, 4n10, R359. -/
  | dt (n : Reg)
  /-- `EXTU.B Rm, Rn`, 6nmC, R360. -/
  | extub (m n : Reg)
  /-- `EXTU.W Rm, Rn`, 6nmD, R361. -/
  | extuw (m n : Reg)
  /-- `EXTS.B Rm, Rn`, 6nmE, R362. -/
  | extsb (m n : Reg)
  /-- `EXTS.W Rm, Rn`, 6nmF, R363. -/
  | extsw (m n : Reg)
  /-- `SWAP.B Rm, Rn`, 6nm8, R364. -/
  | swapb (m n : Reg)
  /-- `SWAP.W Rm, Rn`, 6nm9, R365. -/
  | swapw (m n : Reg)
  /-- `XTRCT Rm, Rn`, 2nmD, R366. -/
  | xtrct (m n : Reg)
  -- 47_shift.md: shifts and rotates
  /-- `SHLL Rn`, 4n00, R380. -/
  | shll (n : Reg)
  /-- `SHAL Rn`, 4n20, R381. -/
  | shal (n : Reg)
  /-- `SHLR Rn`, 4n01, R382. -/
  | shlr (n : Reg)
  /-- `SHAR Rn`, 4n21, R383. -/
  | shar (n : Reg)
  /-- `ROTL Rn`, 4n04, R384. -/
  | rotl (n : Reg)
  /-- `ROTR Rn`, 4n05, R385. -/
  | rotr (n : Reg)
  /-- `ROTCL Rn`, 4n24, R386. -/
  | rotcl (n : Reg)
  /-- `ROTCR Rn`, 4n25, R387. -/
  | rotcr (n : Reg)
  /-- `SHLL2 Rn`, 4n08, R388. -/
  | shll2 (n : Reg)
  /-- `SHLL8 Rn`, 4n18, R389. -/
  | shll8 (n : Reg)
  /-- `SHLL16 Rn`, 4n28, R390. -/
  | shll16 (n : Reg)
  /-- `SHLR2 Rn`, 4n09, R391. -/
  | shlr2 (n : Reg)
  /-- `SHLR8 Rn`, 4n19, R392. -/
  | shlr8 (n : Reg)
  /-- `SHLR16 Rn`, 4n29, R393. -/
  | shlr16 (n : Reg)
  /-- `SHLL4 Rn`, 4n34, R394. -/
  | shll4 (n : Reg)
  /-- `SHLR4 Rn`, 4n35, R395. -/
  | shlr4 (n : Reg)
  /-- `SHAD Rm, Rn`, 4nmC, R396. -/
  | shad (m n : Reg)
  /-- `SHLD Rm, Rn`, 4nmD, R397. -/
  | shld (m n : Reg)
  -- 48_system_trap.md: traps, return, sleep
  /-- `TRAPA #imm`, C3jj, R410. -/
  | trapa (j : BitVec 8)
  /-- `RTE`, 002B, R411. -/
  | rte
  /-- `SLEEP`, 001B, R412. -/
  | sleep
  /-- `BRK`, 003B, R413. -/
  | brk
  -- 30_encoding.md R131: named but not implemented
  /-- `LDTLB`, 0038, R131. -/
  | ldtlb
  /-- `MOVUA.L R0, @Rm`, 0mA9, R131. -/
  | movual (m : Reg)
  /-- `MOVUA.L R0, @-Rm`, 0mE9, R131. -/
  | movualDec (m : Reg)
  /-- `JSR/N Rm`, 4m4B, R131. -/
  | jsrN (m : Reg)
  /-- `RTV/N Rm`, 0m7B, R131. -/
  | rtvN (m : Reg)
  deriving DecidableEq, Repr

end Sys2Proof
end

