-- ==== Sys2Proof/Decode.lean ====
section
/-! DEFINITION. Decoding and encoding of `30_encoding.md`: the decoder of R115 over the opcode map R116, total and
rejecting by name, the encoder written from the same patterns, and the byte order of an instruction word (R73). -/

namespace Sys2Proof

/-- Nibble 3, `w[15:12]` (R6). -/
def nib3 (w : Word) : BitVec 4 := w.extractLsb' 12 4

/-- Nibble 2, `w[11:8]` (R6). -/
def nib2 (w : Word) : BitVec 4 := w.extractLsb' 8 4

/-- Nibble 1, `w[7:4]` (R6). -/
def nib1 (w : Word) : BitVec 4 := w.extractLsb' 4 4

/-- Nibble 0, `w[3:0]` (R6). -/
def nib0 (w : Word) : BitVec 4 := w.extractLsb' 0 4

/-- The 8-bit field `w[7:0]` (R111, formats D8, ND8, I8, J8, NI8). -/
def low8 (w : Word) : BitVec 8 := w.extractLsb' 0 8

/-- The 12-bit field `w[11:0]` (R111, format D12). -/
def low12 (w : Word) : BitVec 12 := w.extractLsb' 0 12

/-- Why a word is an undefined encoding (R130): which rule leaves it without an instruction. -/
inductive DecodeError where
  /-- `0zz0` or `0zz1`, "RES (32-bit ops)" (R133) -/
  | reserved32
  /-- `Fxxx`, "FPU/SIMD Block" (R133) -/
  | fpuBlock
  /-- a row that carries `!` and no mnemonic (R132) -/
  | extensionSlot
  /-- a row whose text is `-`, or a word no row mentions (R134) -/
  | unlisted
  /-- fewer than two bytes were given to `decodeBytes`; a fetch never does this -/
  | truncated
  deriving DecidableEq, Repr

/-- A zero-operand row is exact: nibble 2 is 0, another value is an unlisted word (R134). -/
def exact0 (w : Word) (i : Instr) : Except DecodeError Instr :=
  if nib2 w = 0x0#4 then .ok i else .error .unlisted


/-- Group 0 (R116): the sub-opcode is nibble 0, then nibble 1; `0zz0` and `0zz1` are reserved (R133). -/
def decode0 (w : Word) : Except DecodeError Instr :=
  match nib0 w with
  | 0x0#4 => .error .reserved32
  | 0x1#4 => .error .reserved32
  | 0x2#4 => .ok (.stc (nib1 w) (nib2 w))
  | 0x3#4 =>
    match nib1 w with
    | 0x0#4 => .ok (.bsrf (nib2 w))
    | 0x2#4 => .ok (.braf (nib2 w))
    | 0x8#4 => .ok (.pref (nib2 w))
    | 0xC#4 => .ok (.movcal (nib2 w))
    | 0xE#4 => .ok (.icbi (nib2 w))
    | _ => .error .unlisted
  | 0x4#4 => .ok (.movbStoreR0 (nib1 w) (nib2 w))
  | 0x5#4 => .ok (.movwStoreR0 (nib1 w) (nib2 w))
  | 0x6#4 => .ok (.movlStoreR0 (nib1 w) (nib2 w))
  | 0x7#4 => .ok (.mull (nib1 w) (nib2 w))
  | 0x8#4 =>
    match nib1 w with
    | 0x0#4 => exact0 w .clrt
    | 0x1#4 => exact0 w .sett
    | 0x2#4 => exact0 w .clrmac
    | 0x3#4 => exact0 w .ldtlb
    | 0x4#4 => exact0 w .clrs
    | 0x5#4 => exact0 w .sets
    | 0x6#4 => exact0 w .nott
    | _ => .error .unlisted
  | 0x9#4 =>
    match nib1 w with
    | 0x0#4 => .ok (.nop (nib2 w))
    | 0x1#4 => exact0 w .div0u
    | 0x2#4 => .ok (.movt (nib2 w))
    | 0x3#4 => .ok (.movrt (nib2 w))
    | 0xA#4 => .ok (.movual (nib2 w))
    | 0xE#4 => .ok (.movualDec (nib2 w))
    | _ => .error .unlisted
  | 0xA#4 => .ok (.sts (nib1 w) (nib2 w))
  | 0xB#4 =>
    match nib1 w with
    | 0x0#4 => exact0 w .rts
    | 0x1#4 => exact0 w .sleep
    | 0x2#4 => exact0 w .rte
    | 0x3#4 => exact0 w .brk
    | 0x6#4 => exact0 w .rtsN
    | 0x7#4 => .ok (.rtvN (nib2 w))
    | _ => .error .unlisted
  | 0xC#4 => .ok (.movbLoadR0 (nib1 w) (nib2 w))
  | 0xD#4 => .ok (.movwLoadR0 (nib1 w) (nib2 w))
  | 0xE#4 => .ok (.movlLoadR0 (nib1 w) (nib2 w))
  | _ => .error .extensionSlot

/-- Group 2 (R116). -/
def decode2 (w : Word) : Except DecodeError Instr :=
  match nib0 w with
  | 0x0#4 => .ok (.movbStore (nib1 w) (nib2 w))
  | 0x1#4 => .ok (.movwStore (nib1 w) (nib2 w))
  | 0x2#4 => .ok (.movlStore (nib1 w) (nib2 w))
  | 0x3#4 => .ok (.casl (nib1 w) (nib2 w))
  | 0x4#4 => .ok (.movbStoreDec (nib1 w) (nib2 w))
  | 0x5#4 => .ok (.movwStoreDec (nib1 w) (nib2 w))
  | 0x6#4 => .ok (.movlStoreDec (nib1 w) (nib2 w))
  | 0x7#4 => .ok (.div0s (nib1 w) (nib2 w))
  | 0x8#4 => .ok (.tst (nib1 w) (nib2 w))
  | 0x9#4 => .ok (.and (nib1 w) (nib2 w))
  | 0xA#4 => .ok (.xor (nib1 w) (nib2 w))
  | 0xB#4 => .ok (.or (nib1 w) (nib2 w))
  | 0xC#4 => .ok (.cmpstr (nib1 w) (nib2 w))
  | 0xD#4 => .ok (.xtrct (nib1 w) (nib2 w))
  | 0xE#4 => .ok (.muluw (nib1 w) (nib2 w))
  | _ => .ok (.mulsw (nib1 w) (nib2 w))    -- nibble 0 is F, the one value left

/-- Group 3 (R116); `3zz1` and `3zz9` are set aside (R132). -/
def decode3 (w : Word) : Except DecodeError Instr :=
  match nib0 w with
  | 0x0#4 => .ok (.cmpeq (nib1 w) (nib2 w))
  | 0x1#4 => .error .extensionSlot
  | 0x2#4 => .ok (.cmphs (nib1 w) (nib2 w))
  | 0x3#4 => .ok (.cmpge (nib1 w) (nib2 w))
  | 0x4#4 => .ok (.div1 (nib1 w) (nib2 w))
  | 0x5#4 => .ok (.dmulul (nib1 w) (nib2 w))
  | 0x6#4 => .ok (.cmphi (nib1 w) (nib2 w))
  | 0x7#4 => .ok (.cmpgt (nib1 w) (nib2 w))
  | 0x8#4 => .ok (.sub (nib1 w) (nib2 w))
  | 0x9#4 => .error .extensionSlot
  | 0xA#4 => .ok (.subc (nib1 w) (nib2 w))
  | 0xB#4 => .ok (.subv (nib1 w) (nib2 w))
  | 0xC#4 => .ok (.add (nib1 w) (nib2 w))
  | 0xD#4 => .ok (.dmulsl (nib1 w) (nib2 w))
  | 0xE#4 => .ok (.addc (nib1 w) (nib2 w))
  | _ => .ok (.addv (nib1 w) (nib2 w))    -- nibble 0 is F, the one value left

/-- Group 4 (R116); the set-aside rows are those of R132. -/
def decode4 (w : Word) : Except DecodeError Instr :=
  match nib0 w with
  | 0x0#4 =>
    match nib1 w with
    | 0x0#4 => .ok (.shll (nib2 w))
    | 0x1#4 => .ok (.dt (nib2 w))
    | 0x2#4 => .ok (.shal (nib2 w))
    | _ => .error .unlisted
  | 0x1#4 =>
    match nib1 w with
    | 0x0#4 => .ok (.shlr (nib2 w))
    | 0x1#4 => .ok (.cmppz (nib2 w))
    | 0x2#4 => .ok (.shar (nib2 w))
    | 0x6#4 => .error .extensionSlot
    | 0x7#4 => .error .extensionSlot
    | 0xA#4 => .error .extensionSlot
    | 0xB#4 => .error .extensionSlot
    | 0xC#4 => .ok (.movbStorePc (nib2 w))
    | 0xD#4 => .ok (.movwStorePc (nib2 w))
    | 0xE#4 => .ok (.movlStorePc (nib2 w))
    | _ => .error .unlisted
  | 0x2#4 => .ok (.stsl (nib1 w) (nib2 w))
  | 0x3#4 => .ok (.stcl (nib1 w) (nib2 w))
  | 0x4#4 =>
    match nib1 w with
    | 0x0#4 => .ok (.rotl (nib2 w))
    | 0x1#4 => .error .extensionSlot
    | 0x2#4 => .ok (.rotcl (nib2 w))
    | 0x3#4 => .ok (.shll4 (nib2 w))
    | 0x4#4 => .error .extensionSlot
    | 0x5#4 => .error .extensionSlot
    | _ => .error .unlisted
  | 0x5#4 =>
    match nib1 w with
    | 0x0#4 => .ok (.rotr (nib2 w))
    | 0x1#4 => .ok (.cmppl (nib2 w))
    | 0x2#4 => .ok (.rotcr (nib2 w))
    | 0x3#4 => .ok (.shlr4 (nib2 w))
    | 0xA#4 => .error .extensionSlot
    | 0xB#4 => .error .extensionSlot
    | 0xC#4 => .ok (.movbLoadPc (nib2 w))
    | 0xD#4 => .ok (.movwLoadPc (nib2 w))
    | 0xE#4 => .ok (.movlLoadPc (nib2 w))
    | 0xF#4 => .ok (.leab (nib2 w))
    | _ => .error .unlisted
  | 0x6#4 => .ok (.ldsl (nib2 w) (nib1 w))
  | 0x7#4 => .ok (.ldcl (nib2 w) (nib1 w))
  | 0x8#4 =>
    match nib1 w with
    | 0x0#4 => .ok (.shll2 (nib2 w))
    | 0x1#4 => .ok (.shll8 (nib2 w))
    | 0x2#4 => .ok (.shll16 (nib2 w))
    | 0x3#4 => .error .extensionSlot
    | 0x4#4 => .error .extensionSlot
    | 0x5#4 => .error .extensionSlot
    | 0x6#4 => .error .extensionSlot
    | 0x7#4 => .error .extensionSlot
    | _ => .error .unlisted
  | 0x9#4 =>
    match nib1 w with
    | 0x0#4 => .ok (.shlr2 (nib2 w))
    | 0x1#4 => .ok (.shlr8 (nib2 w))
    | 0x2#4 => .ok (.shlr16 (nib2 w))
    | 0x3#4 => .error .extensionSlot
    | 0xA#4 => .error .extensionSlot
    | 0xE#4 => .error .extensionSlot
    | _ => .error .unlisted
  | 0xA#4 => .ok (.lds (nib2 w) (nib1 w))
  | 0xB#4 =>
    match nib1 w with
    | 0x0#4 => .ok (.jsr (nib2 w))
    | 0x1#4 => .error .extensionSlot
    | 0x2#4 => .ok (.jmp (nib2 w))
    | 0x4#4 => .ok (.jsrN (nib2 w))
    | 0x8#4 => .error .extensionSlot
    | 0x9#4 => .error .extensionSlot
    | 0xA#4 => .error .extensionSlot
    | 0xC#4 => .error .extensionSlot
    | 0xD#4 => .error .extensionSlot
    | 0xE#4 => .error .extensionSlot
    | _ => .error .unlisted
  | 0xC#4 => .ok (.shad (nib1 w) (nib2 w))
  | 0xD#4 => .ok (.shld (nib1 w) (nib2 w))
  | 0xE#4 => .ok (.ldc (nib2 w) (nib1 w))
  | _ => .error .extensionSlot

/-- Group 6 (R116). -/
def decode6 (w : Word) : Except DecodeError Instr :=
  match nib0 w with
  | 0x0#4 => .ok (.movbLoad (nib1 w) (nib2 w))
  | 0x1#4 => .ok (.movwLoad (nib1 w) (nib2 w))
  | 0x2#4 => .ok (.movlLoad (nib1 w) (nib2 w))
  | 0x3#4 => .ok (.mov (nib1 w) (nib2 w))
  | 0x4#4 => .ok (.movbLoadInc (nib1 w) (nib2 w))
  | 0x5#4 => .ok (.movwLoadInc (nib1 w) (nib2 w))
  | 0x6#4 => .ok (.movlLoadInc (nib1 w) (nib2 w))
  | 0x7#4 => .ok (.not (nib1 w) (nib2 w))
  | 0x8#4 => .ok (.swapb (nib1 w) (nib2 w))
  | 0x9#4 => .ok (.swapw (nib1 w) (nib2 w))
  | 0xA#4 => .ok (.negc (nib1 w) (nib2 w))
  | 0xB#4 => .ok (.neg (nib1 w) (nib2 w))
  | 0xC#4 => .ok (.extub (nib1 w) (nib2 w))
  | 0xD#4 => .ok (.extuw (nib1 w) (nib2 w))
  | 0xE#4 => .ok (.extsb (nib1 w) (nib2 w))
  | _ => .ok (.extsw (nib1 w) (nib2 w))    -- nibble 0 is F, the one value left

/-- Group 8 (R116): the sub-opcode is nibble 2; `83dd`, `86zz`, `87zz`, `8Aii`, `8Cii`, `8Eii` are set aside (R132). -/
def decode8 (w : Word) : Except DecodeError Instr :=
  match nib2 w with
  | 0x0#4 => .ok (.movbStoreDisp (nib1 w) (nib0 w))
  | 0x1#4 => .ok (.movwStoreDisp (nib1 w) (nib0 w))
  | 0x2#4 => .ok (.braN (low8 w))
  | 0x4#4 => .ok (.movbLoadDisp (nib1 w) (nib0 w))
  | 0x5#4 => .ok (.movwLoadDisp (nib1 w) (nib0 w))
  | 0x8#4 => .ok (.cmpeqImm (low8 w))
  | 0x9#4 => .ok (.bt (low8 w))
  | 0xB#4 => .ok (.bf (low8 w))
  | 0xD#4 => .ok (.bts (low8 w))
  | 0xF#4 => .ok (.bfs (low8 w))
  | _ => .error .extensionSlot

/-- Group C (R116): the sub-opcode is nibble 2; `CCjj` to `CFjj` are set aside (R132). -/
def decodeC (w : Word) : Except DecodeError Instr :=
  match nib2 w with
  | 0x0#4 => .ok (.movbStoreGbr (low8 w))
  | 0x1#4 => .ok (.movwStoreGbr (low8 w))
  | 0x2#4 => .ok (.movlStoreGbr (low8 w))
  | 0x3#4 => .ok (.trapa (low8 w))
  | 0x4#4 => .ok (.movbLoadGbr (low8 w))
  | 0x5#4 => .ok (.movwLoadGbr (low8 w))
  | 0x6#4 => .ok (.movlLoadGbr (low8 w))
  | 0x7#4 => .ok (.mova (low8 w))
  | 0x8#4 => .ok (.tstImm (low8 w))
  | 0x9#4 => .ok (.andImm (low8 w))
  | 0xA#4 => .ok (.xorImm (low8 w))
  | 0xB#4 => .ok (.orImm (low8 w))
  | _ => .error .extensionSlot

/-- The decoder (R115): total, each word an instruction or a named reason. -/
def decode (w : Word) : Except DecodeError Instr :=
  match nib3 w with
  | 0x0#4 => decode0 w
  | 0x1#4 => .ok (.movlStoreDisp (nib1 w) (nib2 w) (nib0 w))
  | 0x2#4 => decode2 w
  | 0x3#4 => decode3 w
  | 0x4#4 => decode4 w
  | 0x5#4 => .ok (.movlLoadDisp (nib1 w) (nib0 w) (nib2 w))
  | 0x6#4 => decode6 w
  | 0x7#4 => .ok (.addImm (low8 w) (nib2 w))
  | 0x8#4 => decode8 w
  | 0x9#4 => .ok (.movwLoadPcDisp (low8 w) (nib2 w))
  | 0xA#4 => .ok (.bra (low12 w))
  | 0xB#4 => .ok (.bsr (low12 w))
  | 0xC#4 => decodeC w
  | 0xD#4 => .ok (.movlLoadPcDisp (low8 w) (nib2 w))
  | 0xE#4 => .ok (.movImm (low8 w) (nib2 w))
  | _ => .error .fpuBlock

/-- The 16-bit value of two bytes, first the one at the lower address, in the machine's byte order (R73). -/
def wordOfBytes (e : Endian) (b0 b1 : Byte) : Word :=
  match e with
  | .little => b1 ++ b0
  | .big => b0 ++ b1

/-- Decode the instruction at the head of a list of bytes and give back the rest; every instruction is one word
(R110). -/
def decodeBytes (e : Endian) : List Byte → Except DecodeError (Instr × List Byte)
  | b0 :: b1 :: rest =>
    match decode (wordOfBytes e b0 b1) with
    | .ok i => .ok (i, rest)
    | .error r => .error r
  | _ => .error .truncated

/-- Four nibbles, the most significant first, as in the patterns of R116. -/
def word4444 (a b c d : BitVec 4) : Word := a ++ b ++ c ++ d

/-- Two nibbles and an 8-bit field. -/
def word448 (a b : BitVec 4) (d : BitVec 8) : Word := a ++ b ++ d

/-- One nibble and a 12-bit field. -/
def word412 (a : BitVec 4) (d : BitVec 12) : Word := a ++ d


/-- The word of an instruction: its row of the opcode map, written out (R111, R116). -/
def encode : Instr → Word
  | .stc m n => word4444 0x0#4 n m 0x2#4
  | .sts m n => word4444 0x0#4 n m 0xA#4
  | .stsl m n => word4444 0x4#4 n m 0x2#4
  | .stcl m n => word4444 0x4#4 n m 0x3#4
  | .ldsl m o => word4444 0x4#4 m o 0x6#4
  | .ldcl m o => word4444 0x4#4 m o 0x7#4
  | .lds m o => word4444 0x4#4 m o 0xA#4
  | .ldc m o => word4444 0x4#4 m o 0xE#4
  | .clrt => word4444 0x0#4 0x0#4 0x0#4 0x8#4
  | .sett => word4444 0x0#4 0x0#4 0x1#4 0x8#4
  | .clrmac => word4444 0x0#4 0x0#4 0x2#4 0x8#4
  | .clrs => word4444 0x0#4 0x0#4 0x4#4 0x8#4
  | .sets => word4444 0x0#4 0x0#4 0x5#4 0x8#4
  | .nott => word4444 0x0#4 0x0#4 0x6#4 0x8#4
  | .nop i => word4444 0x0#4 i 0x0#4 0x9#4
  | .movt n => word4444 0x0#4 n 0x2#4 0x9#4
  | .movrt n => word4444 0x0#4 n 0x3#4 0x9#4
  | .bsrf m => word4444 0x0#4 m 0x0#4 0x3#4
  | .braf m => word4444 0x0#4 m 0x2#4 0x3#4
  | .rts => word4444 0x0#4 0x0#4 0x0#4 0xB#4
  | .rtsN => word4444 0x0#4 0x0#4 0x6#4 0xB#4
  | .jsr m => word4444 0x4#4 m 0x0#4 0xB#4
  | .jmp m => word4444 0x4#4 m 0x2#4 0xB#4
  | .braN d => word448 0x8#4 0x2#4 d
  | .bt d => word448 0x8#4 0x9#4 d
  | .bf d => word448 0x8#4 0xB#4 d
  | .bts d => word448 0x8#4 0xD#4 d
  | .bfs d => word448 0x8#4 0xF#4 d
  | .bra d => word412 0xA#4 d
  | .bsr d => word412 0xB#4 d
  | .pref n => word4444 0x0#4 n 0x8#4 0x3#4
  | .movcal n => word4444 0x0#4 n 0xC#4 0x3#4
  | .icbi n => word4444 0x0#4 n 0xE#4 0x3#4
  | .casl m n => word4444 0x2#4 n m 0x3#4
  | .movbStoreR0 m n => word4444 0x0#4 n m 0x4#4
  | .movwStoreR0 m n => word4444 0x0#4 n m 0x5#4
  | .movlStoreR0 m n => word4444 0x0#4 n m 0x6#4
  | .movbLoadR0 m n => word4444 0x0#4 n m 0xC#4
  | .movwLoadR0 m n => word4444 0x0#4 n m 0xD#4
  | .movlLoadR0 m n => word4444 0x0#4 n m 0xE#4
  | .movlStoreDisp m n d => word4444 0x1#4 n m d
  | .movbStore m n => word4444 0x2#4 n m 0x0#4
  | .movwStore m n => word4444 0x2#4 n m 0x1#4
  | .movlStore m n => word4444 0x2#4 n m 0x2#4
  | .movbStoreDec m n => word4444 0x2#4 n m 0x4#4
  | .movwStoreDec m n => word4444 0x2#4 n m 0x5#4
  | .movlStoreDec m n => word4444 0x2#4 n m 0x6#4
  | .movbStorePc m => word4444 0x4#4 m 0xC#4 0x1#4
  | .movwStorePc m => word4444 0x4#4 m 0xD#4 0x1#4
  | .movlStorePc m => word4444 0x4#4 m 0xE#4 0x1#4
  | .movbLoadPc n => word4444 0x4#4 n 0xC#4 0x5#4
  | .movwLoadPc n => word4444 0x4#4 n 0xD#4 0x5#4
  | .movlLoadPc n => word4444 0x4#4 n 0xE#4 0x5#4
  | .leab n => word4444 0x4#4 n 0xF#4 0x5#4
  | .movlLoadDisp m d n => word4444 0x5#4 n m d
  | .movbLoad m n => word4444 0x6#4 n m 0x0#4
  | .movwLoad m n => word4444 0x6#4 n m 0x1#4
  | .movlLoad m n => word4444 0x6#4 n m 0x2#4
  | .mov m n => word4444 0x6#4 n m 0x3#4
  | .movbLoadInc m n => word4444 0x6#4 n m 0x4#4
  | .movwLoadInc m n => word4444 0x6#4 n m 0x5#4
  | .movlLoadInc m n => word4444 0x6#4 n m 0x6#4
  | .movbStoreDisp n d => word4444 0x8#4 0x0#4 n d
  | .movwStoreDisp n d => word4444 0x8#4 0x1#4 n d
  | .movbLoadDisp m d => word4444 0x8#4 0x4#4 m d
  | .movwLoadDisp m d => word4444 0x8#4 0x5#4 m d
  | .movwLoadPcDisp d n => word448 0x9#4 n d
  | .movbStoreGbr d => word448 0xC#4 0x0#4 d
  | .movwStoreGbr d => word448 0xC#4 0x1#4 d
  | .movlStoreGbr d => word448 0xC#4 0x2#4 d
  | .movbLoadGbr d => word448 0xC#4 0x4#4 d
  | .movwLoadGbr d => word448 0xC#4 0x5#4 d
  | .movlLoadGbr d => word448 0xC#4 0x6#4 d
  | .mova d => word448 0xC#4 0x7#4 d
  | .movlLoadPcDisp d n => word448 0xD#4 n d
  | .movImm i n => word448 0xE#4 n i
  | .mull m n => word4444 0x0#4 n m 0x7#4
  | .muluw m n => word4444 0x2#4 n m 0xE#4
  | .mulsw m n => word4444 0x2#4 n m 0xF#4
  | .dmulul m n => word4444 0x3#4 n m 0x5#4
  | .dmulsl m n => word4444 0x3#4 n m 0xD#4
  | .div0u => word4444 0x0#4 0x0#4 0x1#4 0x9#4
  | .div0s m n => word4444 0x2#4 n m 0x7#4
  | .div1 m n => word4444 0x3#4 n m 0x4#4
  | .tst m n => word4444 0x2#4 n m 0x8#4
  | .and m n => word4444 0x2#4 n m 0x9#4
  | .xor m n => word4444 0x2#4 n m 0xA#4
  | .or m n => word4444 0x2#4 n m 0xB#4
  | .not m n => word4444 0x6#4 n m 0x7#4
  | .tstImm j => word448 0xC#4 0x8#4 j
  | .andImm j => word448 0xC#4 0x9#4 j
  | .xorImm j => word448 0xC#4 0xA#4 j
  | .orImm j => word448 0xC#4 0xB#4 j
  | .cmpstr m n => word4444 0x2#4 n m 0xC#4
  | .cmpeq m n => word4444 0x3#4 n m 0x0#4
  | .cmphs m n => word4444 0x3#4 n m 0x2#4
  | .cmpge m n => word4444 0x3#4 n m 0x3#4
  | .cmphi m n => word4444 0x3#4 n m 0x6#4
  | .cmpgt m n => word4444 0x3#4 n m 0x7#4
  | .cmppz n => word4444 0x4#4 n 0x1#4 0x1#4
  | .cmppl n => word4444 0x4#4 n 0x1#4 0x5#4
  | .cmpeqImm i => word448 0x8#4 0x8#4 i
  | .sub m n => word4444 0x3#4 n m 0x8#4
  | .subc m n => word4444 0x3#4 n m 0xA#4
  | .subv m n => word4444 0x3#4 n m 0xB#4
  | .add m n => word4444 0x3#4 n m 0xC#4
  | .addc m n => word4444 0x3#4 n m 0xE#4
  | .addv m n => word4444 0x3#4 n m 0xF#4
  | .addImm i n => word448 0x7#4 n i
  | .neg m n => word4444 0x6#4 n m 0xB#4
  | .negc m n => word4444 0x6#4 n m 0xA#4
  | .dt n => word4444 0x4#4 n 0x1#4 0x0#4
  | .extub m n => word4444 0x6#4 n m 0xC#4
  | .extuw m n => word4444 0x6#4 n m 0xD#4
  | .extsb m n => word4444 0x6#4 n m 0xE#4
  | .extsw m n => word4444 0x6#4 n m 0xF#4
  | .swapb m n => word4444 0x6#4 n m 0x8#4
  | .swapw m n => word4444 0x6#4 n m 0x9#4
  | .xtrct m n => word4444 0x2#4 n m 0xD#4
  | .shll n => word4444 0x4#4 n 0x0#4 0x0#4
  | .shal n => word4444 0x4#4 n 0x2#4 0x0#4
  | .shlr n => word4444 0x4#4 n 0x0#4 0x1#4
  | .shar n => word4444 0x4#4 n 0x2#4 0x1#4
  | .rotl n => word4444 0x4#4 n 0x0#4 0x4#4
  | .rotr n => word4444 0x4#4 n 0x0#4 0x5#4
  | .rotcl n => word4444 0x4#4 n 0x2#4 0x4#4
  | .rotcr n => word4444 0x4#4 n 0x2#4 0x5#4
  | .shll2 n => word4444 0x4#4 n 0x0#4 0x8#4
  | .shll8 n => word4444 0x4#4 n 0x1#4 0x8#4
  | .shll16 n => word4444 0x4#4 n 0x2#4 0x8#4
  | .shlr2 n => word4444 0x4#4 n 0x0#4 0x9#4
  | .shlr8 n => word4444 0x4#4 n 0x1#4 0x9#4
  | .shlr16 n => word4444 0x4#4 n 0x2#4 0x9#4
  | .shll4 n => word4444 0x4#4 n 0x3#4 0x4#4
  | .shlr4 n => word4444 0x4#4 n 0x3#4 0x5#4
  | .shad m n => word4444 0x4#4 n m 0xC#4
  | .shld m n => word4444 0x4#4 n m 0xD#4
  | .trapa j => word448 0xC#4 0x3#4 j
  | .rte => word4444 0x0#4 0x0#4 0x2#4 0xB#4
  | .sleep => word4444 0x0#4 0x0#4 0x1#4 0xB#4
  | .brk => word4444 0x0#4 0x0#4 0x3#4 0xB#4
  | .ldtlb => word4444 0x0#4 0x0#4 0x3#4 0x8#4
  | .movual m => word4444 0x0#4 m 0xA#4 0x9#4
  | .movualDec m => word4444 0x0#4 m 0xE#4 0x9#4
  | .jsrN m => word4444 0x4#4 m 0x4#4 0xB#4
  | .rtvN m => word4444 0x0#4 m 0x7#4 0xB#4

/-- The low byte and the high byte of a word in the order in which they lie in memory, the lower address first
(R73). -/
def bytesOfWord (e : Endian) (w : Word) : Byte × Byte :=
  match e with
  | .little => (w.extractLsb' 0 8, w.extractLsb' 8 8)
  | .big => (w.extractLsb' 8 8, w.extractLsb' 0 8)

/-- The instruction the decoder reads from an opcode-table word: the word's bytes in the default byte order (R5),
through `decodeBytes`. A row of the table is always one word (R110), so `nbits` is 16. -/
def decodeTableWord (nbits w : Nat) : Option Instr :=
  let b := bytesOfWord Config.suggested.endian (BitVec.ofNat 16 (w % 2 ^ nbits))
  match decodeBytes Config.suggested.endian [b.1, b.2] with
  | .ok (i, _) => some i
  | .error _ => none

end Sys2Proof
end

