-- ==== Sys2Proof/Machine/State.lean ====
section
/-! DEFINITION. The state of the machine (`10_state.md`), the reasons a step can stop, and the state after reset.
Every field is plain data. -/

namespace Sys2Proof.Machine

/-- Memory: the bytes written or placed so far, as (address, byte) pairs with addresses strictly rising
(`Memory.wf` in Ops.lean). An unlisted address holds no value that the spec gives; what a read of it delivers is
said once, in `State.byteAt` (log 5). -/
abbrev Memory := List Host.Cell

/-- The kinds of exception with the info each records (R422). -/
inductive Cause where
  /-- an interrupt of this level (R441) -/
  | interrupt (level : BitVec 4)
  /-- `TRAPA #j` (R410) -/
  | trapa (j : BitVec 8)
  /-- `BRK` (R413) -/
  | breakpoint
  /-- `IllegalInstruction`, with the instruction word (R423) -/
  | illegalInstruction (w : Word)
  /-- `SlotIllegalInstruction`, with the instruction word (R424) -/
  | slotIllegalInstruction (w : Word)
  /-- `AddressErrorRead`, with the faulting address (R425) -/
  | addressErrorRead (a : DWord)
  /-- `AddressErrorWrite`, with the faulting address (R425) -/
  | addressErrorWrite (a : DWord)
  deriving DecidableEq, Repr

/-- One access that reached a device: its size in bytes, its address, and the value of that size that the device
delivered or was given (R78, R79). -/
inductive DeviceAccess where
  /-- a load or a fetch -/
  | read (bytes : Nat) (a v : DWord)
  /-- a store -/
  | write (bytes : Nat) (a v : DWord)
  deriving DecidableEq, Repr

/-- The address of an access. -/
def DeviceAccess.address : DeviceAccess → DWord
  | .read _ a _ => a
  | .write _ a _ => a

/-- The access took a value from the platform. -/
def DeviceAccess.isRead : DeviceAccess → Bool
  | .read _ _ _ => true
  | .write _ _ _ => false

/-- Why the machine stops. -/
inductive Fault where
  /-- A synchronous exception of this kind was raised while SR.BL = 1: "the model stops; there is no next state"
  (R435). Raised by `raise` in Ops.lean, so by any instruction that raises an exception and by the fetch. Safe:
  the spec gives no next state, and a claim about one is lost, never wrongly won. -/
  | exceptionWhileBlocked (c : Cause)
  /-- The core sleeps and no coming request will be accepted: it "sleeps for ever, and the model is stuck (no next
  state), which errs toward unprovable" (R412, D27, U53). Raised by `step`, where `boundary` in Fetch.lean says
  `stuck`. Safe: the spec gives no next state. -/
  | endlessSleep
  deriving DecidableEq, Repr

/-- Why the model gives no next state. -/
inductive Refusal where
  /-- An instruction without a meaning. No arm of `exec` answers it. Safe. -/
  | notModelled (mnemonic : String)
  /-- A fetch at an address in `icache_stale`: "no defined result and the model refuses" (R86). Raised by
  `withFetch` in Fetch.lean. Safe: old word or new word, no claim is won. -/
  | staleFetch (a : DWord)
  /-- An access to a byte that no region of `MEM_MAP` holds: "an access outside has no step (stuck) or is answered
  by the platform oracle" (R79), "the safe model refuses it" (R425). Raised by every load, store and fetch. Safe. -/
  | unmappedAccess (a : DWord)
  /-- An access at `a` some bytes of which are memory and some a device's. R78 makes it "a single access: it is not
  split", and no rule says who answers it (log 40). Raised by every load, store and fetch. Safe. -/
  | straddlingAccess (a : DWord)
  deriving DecidableEq, Repr

/-- The state. Registers by their names in `10_state.md` rule R20. -/
structure State where
  /-- R0_A..R7_A (R22) -/
  bankA : Vector DWord 8
  /-- R0_B..R7_B (R22) -/
  bankB : Vector DWord 8
  /-- R8..R15, one copy each (R22); R15 is SP (R21) -/
  high : Vector DWord 8
  /-- PC: the address of the instruction about to run, or running (R12, R24) -/
  pc : DWord
  /-- SR, fields as in R32 -/
  sr : DWord
  /-- GBR (R28) -/
  gbr : DWord
  /-- VBR (R29) -/
  vbr : DWord
  /-- SSR (R30) -/
  ssr : DWord
  /-- SPC (R30) -/
  spc : DWord
  /-- SGR (R30) -/
  sgr : DWord
  /-- DBR (R31) -/
  dbr : DWord
  /-- MACH (R27) -/
  mach : DWord
  /-- MACL (R27) -/
  macl : DWord
  /-- PR (R26) -/
  pr : DWord
  /-- FPUL, reachable only when `HAS_FPU_REGS` (R45) -/
  fpul : DWord
  /-- FPSCR, reachable only when `HAS_FPU_REGS` (R45) -/
  fpscr : DWord
  /-- `delay_target` (R46): `some t` exactly while the instruction at `pc` stands in a delay slot -/
  delayTarget : Option DWord
  /-- `sleeping` (R47) -/
  sleeping : Bool
  /-- `last_cause`, ghost: no instruction reads it (R48, R432) -/
  lastCause : Option Cause
  /-- `icache_stale`, ghost (R49): even addresses, strictly rising -/
  icacheStale : List Nat
  /-- memory (R70) -/
  mem : Memory
  /-- the environment's input `irq` (R47, R440), the model's own form: what the coming instruction boundaries see,
  one entry each, the first entry first; when the list is used up no request is asserted (log 17) -/
  irqs : List (Option (BitVec 4))
  /-- the environment's input to device reads (R79, U59 of file 93), the model's own form: what devices deliver to
  the coming reads, one entry each, the first entry first; when the list is used up a read delivers a free value
  (log 46) -/
  deviceInput : List DWord
  /-- every access that reached a device, the newest first: ghost, the model's own field (R83; log 46) -/
  deviceLog : List DeviceAccess
  /-- the parameters of R5; no step changes them (log 1) -/
  cfg : Config
  deriving DecidableEq, Repr

/-- The reset of R50 and R470 under given parameters. A register whose value after reset the spec leaves
unspecified is 0 here: DESIGN CHOICE, unsafe (log 4). -/
def State.resetWith (c : Config) : State where
  bankA := Vector.replicate 8 0
  bankB := Vector.replicate 8 0
  high := Vector.replicate 8 0
  pc := c.resetPc
  sr := c.resetSr
  gbr := 0
  vbr := c.resetVbr
  ssr := 0
  spc := 0
  sgr := 0
  dbr := 0
  mach := 0
  macl := 0
  pr := 0
  fpul := 0
  fpscr := 0
  delayTarget := none
  sleeping := false
  lastCause := none
  icacheStale := []
  mem := []
  irqs := []
  deviceInput := []
  deviceLog := []
  cfg := c

/-- The machine right after reset, under the values of R5 (R50, R470; log 2, log 3). -/
def State.reset : State := State.resetWith Config.suggested

end Sys2Proof.Machine
end

