-- ==== Sys2Proof/Machine/Flags.lean ====
section
/-! DEFINITION. The bits of SR (`10_state.md` rules R32 to R42) and every flag computation: carry, borrow, signed
overflow, and the tests that set T. -/

namespace Sys2Proof.Machine

/-- The 32-bit value `v` with bit `i` set to `b` and every other bit kept. -/
def setBit (v : DWord) (i : Nat) (b : Bool) : DWord :=
  if b then v ||| BitVec.twoPow 32 i else v &&& ~~~(BitVec.twoPow 32 i)

/-- SR.T, bit 0 (R33). -/
def State.t (s : State) : Bool := s.sr.getLsbD 0

/-- SR.S, bit 1 (R34). -/
def State.s (s : State) : Bool := s.sr.getLsbD 1

/-- SR.IM, bits 7:4 (R35). -/
def State.im (s : State) : BitVec 4 := s.sr.extractLsb' 4 4

/-- SR.Q, bit 8 (R36). -/
def State.q (s : State) : Bool := s.sr.getLsbD 8

/-- SR.M, bit 9 (R36). -/
def State.m (s : State) : Bool := s.sr.getLsbD 9

/-- SR.FD, bit 15 (R37). -/
def State.fd (s : State) : Bool := s.sr.getLsbD 15

/-- SR.BL, bit 28 (R38). -/
def State.bl (s : State) : Bool := s.sr.getLsbD 28

/-- SR.RB, bit 29 (R39). -/
def State.rb (s : State) : Bool := s.sr.getLsbD 29

/-- SR.MD, bit 30: 1 is supervisor mode, 0 is user mode (R40). -/
def State.md (s : State) : Bool := s.sr.getLsbD 30

/-- `SR.T <- b`. -/
def State.withT (s : State) (b : Bool) : State := { s with sr := setBit s.sr 0 b }

/-- `SR.S <- b`. -/
def State.withS (s : State) (b : Bool) : State := { s with sr := setBit s.sr 1 b }

/-- `SR.Q <- b`. -/
def State.withQ (s : State) (b : Bool) : State := { s with sr := setBit s.sr 8 b }

/-- `SR.M <- b`. -/
def State.withM (s : State) (b : Bool) : State := { s with sr := setBit s.sr 9 b }

/-- The bits of SR that have a name: T, S, IM, Q, M, FD, BL, RB, MD. Every other bit reads 0 (R41, R42). -/
def srNamedBits : DWord := 0x700083F3

/-- SR after trap entry sets MD, RB and BL (R430). -/
def trapSr (sr : DWord) : DWord := setBit (setBit (setBit sr 30 true) 29 true) 28 true

/-- A flag as an integer, 0 or 1. -/
def bit (b : Bool) : Nat := if b then 1 else 0

/-- A flag as a 32-bit value, 0 or 1: `zext_1` (R180). -/
def bitDWord (b : Bool) : DWord := if b then 1 else 0

/-- Add with carry in, exact: the result modulo 2^32 and the carry out (R354). -/
def addCarry (a b : DWord) (c : Bool) : DWord × Bool :=
  let exact := a.toNat + b.toNat + bit c
  (BitVec.ofNat 32 exact, decide (2 ^ 32 ≤ exact))

/-- Subtract with borrow in, exact: the result modulo 2^32 and the borrow out (R351, R358). -/
def subBorrow (a b : DWord) (c : Bool) : DWord × Bool :=
  let exact : Int := (a.toNat : Int) - b.toNat - bit c
  (BitVec.ofInt 32 exact, decide (exact < 0))

/-- An exact signed result that 32 bits cannot hold (R352, R355). -/
def overflows (exact : Int) : Bool := decide (exact < -2 ^ 31) || decide (2 ^ 31 - 1 < exact)

/-- Signed add: the result modulo 2^32 and whether it overflowed (R355). -/
def addOverflow (a b : DWord) : DWord × Bool :=
  let exact := a.toInt + b.toInt
  (BitVec.ofInt 32 exact, overflows exact)

/-- Signed subtract: the result modulo 2^32 and whether it overflowed (R352). -/
def subOverflow (a b : DWord) : DWord × Bool :=
  let exact := a.toInt - b.toInt
  (BitVec.ofInt 32 exact, overflows exact)

/-- At least one of the four byte positions holds equal bytes (R329). -/
def someByteEqual (a b : DWord) : Bool :=
  let t := a ^^^ b
  t.extractLsb' 24 8 == 0#8 || t.extractLsb' 16 8 == 0#8 || t.extractLsb' 8 8 == 0#8 || t.extractLsb' 0 8 == 0#8

/-- What one `DIV1` computes (R307) from the dividend register, the divisor and the old Q, M and T: the new
dividend register, the new Q and the new T. -/
def divStep (dividend divisor : DWord) (q m t : Bool) : DWord × Bool × Bool :=
  let a := (dividend <<< 1) ||| bitDWord t
  let r := if q = m then a - divisor else a + divisor
  let c := if q = m then decide (a.toNat < divisor.toNat) else decide (2 ^ 32 ≤ a.toNat + divisor.toNat)
  let q' := dividend.msb ^^ c ^^ m
  (r, q', q' == m)

end Sys2Proof.Machine
end

