-- ==== Sys2Proof/Machine/Operands.lean ====
section
/-! DEFINITION. Operand forms: access widths, sign and zero extension (`00_scope.md` R9, `20_memory.md` R77),
immediates and displacements (`30_encoding.md` R113), effective addresses (`43_data_transfer.md` R240), and the
value computations of the extension, swap and shift instructions. -/

namespace Sys2Proof.Machine

/-- The width of a data access (R71): `.B`, `.W`, `.L`. -/
inductive Width where
  | byte
  | word
  | long
  deriving DecidableEq, Repr

/-- `size`: 1, 2 or 4 bytes (R71, R240). -/
def Width.bytes : Width → Nat
  | .byte => 1
  | .word => 2
  | .long => 4

/-- `size` as a 32-bit value. -/
def Width.size (n : Width) : DWord := BitVec.ofNat 32 n.bytes

/-- The low bits of an address that must be 0 for this width (R75). -/
def Width.alignMask : Width → DWord
  | .byte => 0
  | .word => 1
  | .long => 3

/-- The low `8n` bits, which an access of this width moves (R77). -/
def Width.valueMask : Width → DWord
  | .byte => 0xFF
  | .word => 0xFFFF
  | .long => 0xFFFFFFFF

/-- `addr mod n = 0` (R10, R75). -/
def aligned (n : Width) (a : DWord) : Bool := a &&& n.alignMask == 0#32

/-- `sext_8` of the low 8 bits (R9). -/
def sext8 (v : DWord) : DWord := (v.extractLsb' 0 8).signExtend 32

/-- `sext_16` of the low 16 bits (R9). -/
def sext16 (v : DWord) : DWord := (v.extractLsb' 0 16).signExtend 32

/-- `zext_8` of the low 8 bits (R9). -/
def zext8 (v : DWord) : DWord := (v.extractLsb' 0 8).setWidth 32

/-- `zext_16` of the low 16 bits (R9). -/
def zext16 (v : DWord) : DWord := (v.extractLsb' 0 16).setWidth 32

/-- What a load of this width writes to its destination from the value read (R77). -/
def extendLoad : Width → DWord → DWord
  | .byte, v => sext8 v
  | .word, v => sext16 v
  | .long, v => v

/-- A signed 8-bit immediate, `sext_8(i)` (R113). -/
def immSigned (i : BitVec 8) : DWord := i.signExtend 32

/-- An unsigned 8-bit immediate, `zext_8(j)` (R113). -/
def immUnsigned (j : BitVec 8) : DWord := j.setWidth 32

/-- A 4-bit displacement, zero-extended and scaled by the access size (R113). -/
def disp4 (n : Width) (d : BitVec 4) : DWord := d.setWidth 32 * n.size

/-- An 8-bit displacement, zero-extended and scaled by the access size (R113). -/
def disp8 (n : Width) (d : BitVec 8) : DWord := d.setWidth 32 * n.size

/-- `2 * s(sext_8(d))`, the displacement of `BT`, `BF`, `BTS`, `BFS` (R113). -/
def branchDisp8 (d : BitVec 8) : DWord := d.signExtend 32 * 2

/-- `2 * s(sext_12(d))`, the displacement of `BRA` and `BSR` (R113). -/
def branchDisp12 (d : BitVec 12) : DWord := d.signExtend 32 * 2

/-- The displacement of `BRA/N` under `BRAN_DISP8` (R209). -/
def branNDisp (x : BranDisp8) (d : BitVec 8) : DWord :=
  match x with
  | .zeroExtended => d.setWidth 32 * 2
  | .signExtended => d.signExtend 32 * 2

/-- The operand the source writes `PC`: the address of the instruction plus 4 (R12, R24). -/
def State.pcOperand (s : State) : DWord := s.pc + 4

/-- `@(PC,disp)` of `MOV.W` (R240, R273). -/
def State.eaPcWord (s : State) (d : BitVec 8) : DWord := s.pcOperand + disp8 .word d

/-- `@(PC,disp)` of `MOV.L` and `MOVA`: the low two bits of `pc + 4` cleared (R240, R280, R281). -/
def State.eaPcLong (s : State) (d : BitVec 8) : DWord := (s.pcOperand &&& 0xFFFFFFFC) + disp8 .long d

/-- `@(GBR,disp)` (R240). -/
def State.eaGbr (s : State) (n : Width) (d : BitVec 8) : DWord := s.gbr + disp8 n d

/-- The two low bytes exchanged, the upper half kept (R364). -/
def swapBytes (v : DWord) : DWord := v.extractLsb' 16 16 ++ v.extractLsb' 0 8 ++ v.extractLsb' 8 8

/-- The two 16-bit halves exchanged (R365). -/
def swapWords (v : DWord) : DWord := v.extractLsb' 0 16 ++ v.extractLsb' 16 16

/-- The middle 32 bits of the 64-bit value Rm:Rn (R366). -/
def extractMiddle (rm rn : DWord) : DWord := rm.extractLsb' 0 16 ++ rn.extractLsb' 16 16

/-- The arithmetic dynamic shift of `SHAD` (R396, R398). -/
def shiftArithmetic (v amount : DWord) : DWord :=
  let n := (amount.extractLsb' 0 5).toNat
  if amount.msb = false then v <<< n
  else if n = 0 then (if v.msb then 0xFFFFFFFF else 0x00000000)
  else v.sshiftRight (32 - n)

/-- The logical dynamic shift of `SHLD` (R397, R398). -/
def shiftLogical (v amount : DWord) : DWord :=
  let n := (amount.extractLsb' 0 5).toNat
  if amount.msb = false then v <<< n
  else if n = 0 then 0x00000000
  else v >>> (32 - n)

/-- The exact unsigned product of two 32-bit values, 64 bits (R303). -/
def productUnsigned (a b : DWord) : BitVec 64 := BitVec.ofNat 64 (a.toNat * b.toNat)

/-- The exact signed product of two 32-bit values, 64 bits two's complement (R304). -/
def productSigned (a b : DWord) : BitVec 64 := BitVec.ofInt 64 (a.toInt * b.toInt)

end Sys2Proof.Machine
end

