-- ==== Sys2Proof/Machine/Ops.lean ====
section
/-! DEFINITION. The operations the meanings share: general registers and their banks (R22), control and system
registers (R160 to R164), memory and devices with their checks (R70 to R79, R83, R86), the end of an instruction and the delay slot
(R200), taking an exception (R430 to R435) and returning from one (R411, R445). -/

namespace Sys2Proof.Machine

/-- What an instruction answers. -/
abbrev Result := Host.Outcome State Fault Refusal

/-- An instruction stands in a delay slot: `delay_target ≠ none` (R200). -/
def State.inSlot (s : State) : Bool := s.delayTarget.isSome

/-! General registers. -/

/-- The 24 physical general registers (R22). -/
inductive PhysReg where
  | bankA (i : BitVec 3)
  | bankB (i : BitVec 3)
  | high (i : BitVec 3)
  deriving DecidableEq, Repr

/-- The contents of a physical register. -/
def State.readPhys (s : State) : PhysReg → DWord
  | .bankA i => s.bankA[i.toNat]'i.isLt
  | .bankB i => s.bankB[i.toNat]'i.isLt
  | .high i => s.high[i.toNat]'i.isLt

/-- `s` with one physical register written. -/
def State.writePhys (s : State) (p : PhysReg) (v : DWord) : State :=
  match p with
  | .bankA i => { s with bankA := s.bankA.set i.toNat v i.isLt }
  | .bankB i => { s with bankB := s.bankB.set i.toNat v i.isLt }
  | .high i => { s with high := s.high.set i.toNat v i.isLt }

/-- `bankB`: whether `x[0]` to `x[7]` name Bank B, under `BANK_SELECT` (R22, D9). -/
def State.bankBMapped (s : State) : Bool :=
  match s.cfg.bankSelect with
  | .mdAndRb => s.md && s.rb
  | .mdOnly => s.md
  | .rbOnly => s.rb

/-- The physical register that `x[r]` names now (R22, R23). -/
def State.physOf (s : State) (r : Reg) : PhysReg :=
  let i := r.extractLsb' 0 3
  if r.getLsbD 3 then .high i else if s.bankBMapped then .bankB i else .bankA i

/-- `x[r]` (R10). -/
def State.reg (s : State) (r : Reg) : DWord := s.readPhys (s.physOf r)

/-- `x[r] <- v` (R10). -/
def State.setReg (s : State) (r : Reg) (v : DWord) : State := s.writePhys (s.physOf r) v

/-! Memory. -/

/-- The value listed at an address, if any. -/
def Memory.get : Memory → Nat → Option Byte
  | [], _ => none
  | (k, v) :: rest, a => if a = k then some v else Memory.get rest a

/-- Write one byte, keeping the addresses strictly rising. -/
def Memory.set : Memory → Nat → Byte → Memory
  | [], a, v => [(a, v)]
  | (k, x) :: rest, a, v =>
    if a < k then (a, v) :: (k, x) :: rest
    else if a = k then (a, v) :: rest
    else (k, x) :: Memory.set rest a v

/-- A list of addresses rises strictly. -/
def rising : List Nat → Bool
  | [] => true
  | [_] => true
  | a :: b :: rest => decide (a < b) && rising (b :: rest)

/-- The canonical form of memory: addresses strictly rising and below 2^32 (R70). No entry equals what an unlisted
address holds, which is no value. -/
def Memory.wf (m : Memory) : Bool :=
  rising (m.map Prod.fst) && m.all fun c => decide (c.1 < 2 ^ 32)

/-- The byte a read of address `a` delivers: the listed one, or where nothing has been written the free value of
that address (R50, D35; log 5). -/
def State.byteAt (s : State) (a : DWord) : Byte := (Memory.get s.mem a.toNat).getD (Config.initialByte a)

/-- One byte of memory written. -/
def State.setByte (s : State) (a : DWord) (v : Byte) : State := { s with mem := Memory.set s.mem a.toNat v }

/-- The offset from the address of an access to the byte with weight 2^(8k), under `ENDIAN` (R72). -/
def lane (e : Endian) (n : Width) (k : Nat) : DWord :=
  match e with
  | .little => BitVec.ofNat 32 k
  | .big => BitVec.ofNat 32 (n.bytes - 1 - k)

/-- The byte with weight 2^(8k) of an access at `a` (R72). -/
def State.laneAt (s : State) (n : Width) (a : DWord) (k : Nat) : Byte := s.byteAt (a + lane s.cfg.endian n k)

/-- `MemRead(a, n)`, the unsigned value, without its checks (R10, R72). -/
def State.readMem (s : State) (n : Width) (a : DWord) : DWord :=
  match n with
  | .byte => (s.laneAt .byte a 0).setWidth 32
  | .word => (s.laneAt .word a 1 ++ s.laneAt .word a 0).setWidth 32
  | .long => s.laneAt .long a 3 ++ s.laneAt .long a 2 ++ s.laneAt .long a 1 ++ s.laneAt .long a 0

/-- One byte of a store: the bits of weight 2^(8k) of `v` (R72). -/
def State.setLane (s : State) (n : Width) (a v : DWord) (k : Nat) : State :=
  s.setByte (a + lane s.cfg.endian n k) (v.extractLsb' (8 * k) 8)

/-- The bytes of `MemWrite(a, n, v)`, without its checks (R10, R72). -/
def State.writeBytes (s : State) (n : Width) (a v : DWord) : State :=
  match n with
  | .byte => s.setLane .byte a v 0
  | .word => (s.setLane .word a v 0).setLane .word a v 1
  | .long => (((s.setLane .long a v 0).setLane .long a v 1).setLane .long a v 2).setLane .long a v 3

/-- Add one address to a strictly rising list. -/
def insertRising : List Nat → Nat → List Nat
  | [], a => [a]
  | k :: rest, a => if a < k then a :: k :: rest else if a = k then k :: rest else k :: insertRising rest a

/-- The even address of the 2-byte unit a byte lies in (R49). -/
def unitOf (a : DWord) : Nat := (a &&& 0xFFFFFFFE#32).toNat

/-- The 2-byte units an aligned access touches (R49). -/
def unitsOf (n : Width) (a : DWord) : List Nat :=
  match n with
  | .byte => [unitOf a]
  | .word => [unitOf a]
  | .long => [unitOf a, unitOf (a + 2)]

/-- The units an access touches become stale for the fetcher (R49, R86). -/
def State.markStale (s : State) (n : Width) (a : DWord) : State :=
  { s with icacheStale := (unitsOf n a).foldl insertRising s.icacheStale }

/-! Devices (R79, R83). An access reaches a device as one access, in program order, and is logged; what a read delivers
is the platform's. -/

/-- `MEM_MAP` has a device at `a`, so a device answers an access there. -/
def State.atDevice (s : State) (a : DWord) : Bool := s.cfg.kindAt a.toNat == some .device

/-- What the device delivers to a read of `n` bytes now: the next value of the platform's input, or a free value where
that is used up (U59 of file 93; log 46). -/
def State.deviceValue (s : State) (n : Width) : DWord :=
  s.deviceInput.headD (Config.deviceValue s.deviceLog.length) &&& n.valueMask

/-- `s` once a device has answered a read. -/
def State.deviceRead (s : State) (n : Width) (a : DWord) : State :=
  { s with
    deviceInput := s.deviceInput.tail
    deviceLog := .read n.bytes a (s.deviceValue n) :: s.deviceLog }

/-- `s` once a device has been given the low bytes of `v`. -/
def State.deviceWrite (s : State) (n : Width) (a v : DWord) : State :=
  { s with deviceLog := .write n.bytes a (v &&& n.valueMask) :: s.deviceLog }

/-- The value of `MemRead(a, n)` without its checks: from memory, or from the device at `a` (R10, R79). -/
def State.loadValue (s : State) (n : Width) (a : DWord) : DWord :=
  if s.atDevice a then s.deviceValue n else s.readMem n a

/-- The state after `MemRead(a, n)`: a read of memory changes nothing (R79). -/
def State.afterLoad (s : State) (n : Width) (a : DWord) : State :=
  if s.atDevice a then s.deviceRead n a else s

/-- `MemWrite(a, n, v)` without its checks: to memory, or to the device at `a`; the units touched become stale
(R10, R79, R86). -/
def State.writeMem (s : State) (n : Width) (a v : DWord) : State :=
  (if s.atDevice a then s.deviceWrite n a v else s.writeBytes n a v).markStale n a

/-- Why a byte cannot be accessed, if no region of `MEM_MAP` holds it (R79). -/
def State.byteRefusal (s : State) (a : DWord) : Option Refusal :=
  match s.cfg.kindAt a.toNat with
  | some _ => none
  | none => some (.unmappedAccess a)

/-- Every byte of an access is memory, or every byte a device's. -/
def State.oneKind (s : State) (n : Width) (a : DWord) : Bool :=
  (List.range n.bytes).all fun k => s.cfg.kindAt (a + BitVec.ofNat 32 k).toNat == s.cfg.kindAt a.toNat

/-- Why an access of `n` bytes at `a` cannot be made, if so: the first of its bytes that no region holds, or that
memory and a device share it (R79; log 40). -/
def State.accessRefusal (s : State) (n : Width) (a : DWord) : Option Refusal :=
  match (List.range n.bytes).findSome? fun k => s.byteRefusal (a + BitVec.ofNat 32 k) with
  | some r => some r
  | none => if s.oneKind n a then none else some (.straddlingAccess a)

/-- `icache_stale` without the even addresses of the aligned `ICACHE_LINE`-byte block that contains `a`
(R86, R232). -/
def State.invalidateLine (s : State) (a : DWord) : State :=
  let base := a.toNat - a.toNat % s.cfg.icacheLine
  { s with icacheStale := s.icacheStale.filter fun u => !(base ≤ u && u < base + s.cfg.icacheLine) }

/-! The end of an instruction (R200). -/

/-- An instruction that requested no new pc is complete: in a delay slot the delayed branch now happens, elsewhere
`pc <- pc + 2` (R25, R200). -/
def State.advance (s : State) : State :=
  match s.delayTarget with
  | some t => { s with pc := t, delayTarget := none }
  | none => { s with pc := s.pc + 2 }

/-- `pc <- t`, outside a delay slot (R200). -/
def State.jump (s : State) (t : DWord) : State := { s with pc := t }

/-- `delayed_branch(t)`, outside a delay slot: the instruction at `pc + 2` runs next, then the one at `t`
(R12, R200). -/
def State.delayedBranch (s : State) (t : DWord) : State := { s with delayTarget := some t, pc := s.pc + 2 }

/-- The instruction is complete and requested no new pc. -/
def finish (s : State) : Result := .next s.advance

/-! Taking an exception. -/

/-- The trap sequence of R430, for an event of kind `c` with the saved address `saved` (R433) and the vector offset
`off` (R431), once it is known that it may be entered. -/
def State.enterTrap (s : State) (c : Cause) (saved off : DWord) : State :=
  { s with
    spc := saved
    ssr := s.sr
    sgr := s.reg 15
    sr := trapSr s.sr
    lastCause := some c
    delayTarget := none
    sleeping := false
    pc := s.vbr + off }

/-- `raise`, for a synchronous exception (R11): the trap sequence through `VEC_GENERAL`; while SR.BL = 1 the machine
stops (R435). -/
def raise (c : Cause) (saved : DWord) (s : State) : Result :=
  if s.bl then .fault (.exceptionWhileBlocked c) else .next (s.enterTrap c saved s.cfg.vecGeneral)

/-- The code of an exception kind under `CAUSE_CODES` (R422). No instruction reads one; a platform that adds cause
registers as devices would (R432). -/
def codeOf (c : CauseCodes) : Cause → DWord
  | .interrupt l => c.interrupt[l.toNat]'l.isLt
  | .trapa _ => c.trapa
  | .breakpoint => c.breakpoint
  | .illegalInstruction _ => c.illegal
  | .slotIllegalInstruction _ => c.slotIllegal
  | .addressErrorRead _ => c.addressRead
  | .addressErrorWrite _ => c.addressWrite

/-- The code of `last_cause` (R422, R432; log 19). -/
def State.lastCode (s : State) : Option DWord := s.lastCause.map (codeOf s.cfg.causeCodes)

/-- The saved pc of a fault: the faulting instruction, or the delayed branch before it when it stands in a delay slot
(R433). -/
def State.faultPc (s : State) : DWord := if s.inSlot then s.pc - 2 else s.pc

/-- `raise IllegalInstruction`, which in a delay slot is `SlotIllegalInstruction`; `w` is the instruction word
(R422, R423, R424). -/
def raiseIllegal (w : Word) (s : State) : Result :=
  raise (if s.inSlot then .slotIllegalInstruction w else .illegalInstruction w) s.faultPc s

/-- Run `k` when the check `ok` of the instruction `i` holds; otherwise `i` is illegal where it stands. The checks of
one instruction all end in the same exception (R424, R436). -/
def guardLegal (ok : Bool) (i : Instr) (s : State) (k : Result) : Result :=
  if ok then k else raiseIllegal (encode i) s

/-- A load: alignment (R75), then `MEM_MAP` (R79), then `k` of the unsigned value read and the state after the read
(R10). -/
def withLoad (n : Width) (a : DWord) (s : State) (k : DWord → State → Result) : Result :=
  if aligned n a then
    match s.accessRefusal n a with
    | some r => .refused r
    | none => k (s.loadValue n a) (s.afterLoad n a)
  else raise (.addressErrorRead a) s.faultPc s

/-- A store: alignment (R75), then `MEM_MAP` (R79), then `k` of the state after the write (R10). -/
def withStore (n : Width) (a v : DWord) (s : State) (k : State → Result) : Result :=
  if aligned n a then
    match s.accessRefusal n a with
    | some r => .refused r
    | none => k (s.writeMem n a v)
  else raise (.addressErrorWrite a) s.faultPc s

/-! Control and system registers. -/

/-- `require_priv()` passes (R164). -/
def State.privOk (s : State) : Bool := !s.cfg.privCheck || s.md

/-- What an index of the CR table names (R44). -/
inductive CtrlReg where
  | sr
  | gbr
  | vbr
  | ssr
  | spc
  | pc
  | bank (k : BitVec 3)
  | unnamed
  deriving DecidableEq, Repr

/-- The CR table (R44). -/
def ctrlReg (i : CtrlIdx) : CtrlReg :=
  match i.toNat with
  | 0 => .sr
  | 1 => .gbr
  | 2 => .vbr
  | 3 => .ssr
  | 4 => .spc
  | 5 => .unnamed
  | 6 => .unnamed
  | 7 => .pc
  | _ => .bank (i.extractLsb' 0 3)

/-- `BankReg(k)`: the physical register CR8+k names, under `CR_BANK_VIEW` (R44, R160). -/
def State.crBankReg (s : State) (k : BitVec 3) : PhysReg :=
  match s.cfg.crBankView with
  | .literalB => .bankB k
  | .inactive => if s.bankBMapped then .bankA k else .bankB k

/-- Whether a read of this control register is allowed where it stands (R160). -/
def State.ctrlReadOk (s : State) (i : CtrlIdx) : Bool :=
  match ctrlReg i with
  | .unnamed => false
  | .pc => !s.inSlot
  | .gbr => true
  | .sr | .vbr | .ssr | .spc | .bank _ => s.privOk

/-- The value a read of a control register returns (R160); only asked where `ctrlReadOk` holds. -/
def State.readCtrl (s : State) (i : CtrlIdx) : DWord :=
  match ctrlReg i with
  | .sr => s.sr
  | .gbr => s.gbr
  | .vbr => s.vbr
  | .ssr => s.ssr
  | .spc => s.spc
  | .pc => s.pcOperand
  | .bank k => s.readPhys (s.crBankReg k)
  | .unnamed => 0

/-- Whether a write of this control register is allowed where it stands (R161, R170, R172): a write of SR not in a
delay slot. -/
def State.ctrlWriteOk (s : State) (i : CtrlIdx) : Bool :=
  match ctrlReg i with
  | .unnamed => false
  | .pc => false
  | .gbr => true
  | .sr => !s.inSlot && s.privOk
  | .vbr | .ssr | .spc | .bank _ => s.privOk

/-- The effect of a write of a control register (R161); only asked where `ctrlWriteOk` holds. -/
def State.writeCtrl (s : State) (i : CtrlIdx) (v : DWord) : State :=
  match ctrlReg i with
  | .sr => { s with sr := v &&& s.cfg.srWriteMask }
  | .gbr => { s with gbr := v }
  | .vbr => { s with vbr := v }
  | .ssr => { s with ssr := v }
  | .spc => { s with spc := v }
  | .bank k => s.writePhys (s.crBankReg k) v
  | .pc => s
  | .unnamed => s

/-- What an index of the SYS table names (R43). -/
inductive SysReg where
  | mach
  | macl
  | pr
  | sgr
  | fpul
  | fpscr
  | dbr
  | unnamed
  deriving DecidableEq, Repr

/-- The SYS table (R43). -/
def sysReg (i : SysIdx) : SysReg :=
  match i.toNat with
  | 0 => .mach
  | 1 => .macl
  | 2 => .pr
  | 3 => .sgr
  | 5 => .fpul
  | 6 => .fpscr
  | 15 => .dbr
  | _ => .unnamed

/-- Whether an access to this system register is allowed; reads and writes have the same conditions (R162, R163). -/
def State.sysOk (s : State) (i : SysIdx) : Bool :=
  match sysReg i with
  | .mach | .macl | .pr => true
  | .sgr | .dbr => s.privOk
  | .fpul | .fpscr => s.cfg.hasFpuRegs
  | .unnamed => false

/-- The value of a system register (R162); only asked where `sysOk` holds. -/
def State.readSys (s : State) (i : SysIdx) : DWord :=
  match sysReg i with
  | .mach => s.mach
  | .macl => s.macl
  | .pr => s.pr
  | .sgr => s.sgr
  | .fpul => s.fpul
  | .fpscr => s.fpscr
  | .dbr => s.dbr
  | .unnamed => 0

/-- The effect of a write of a system register (R163); only asked where `sysOk` holds. -/
def State.writeSys (s : State) (i : SysIdx) (v : DWord) : State :=
  match sysReg i with
  | .mach => { s with mach := v }
  | .macl => { s with macl := v }
  | .pr => { s with pr := v }
  | .sgr => { s with sgr := v }
  | .fpul => { s with fpul := v }
  | .fpscr => { s with fpscr := v }
  | .dbr => { s with dbr := v }
  | .unnamed => s

/-! Returning from an exception. -/

/-- `RTE`'s effect (R411, R445): SR restored from SSR under `SR_WRITE_MASK` at once, then a delayed branch to SPC.
R15, SSR, SPC and SGR keep their values. -/
def State.returnFromException (s : State) : State :=
  { s with sr := s.ssr &&& s.cfg.srWriteMask }.delayedBranch s.spc

/-! Shapes that many instructions share; each instruction still has a definition of its own. -/

/-- `x[n] <- f(x[n], x[m])`, no flag (the two-register forms of files 45 to 47). -/
def binaryOp (f : DWord → DWord → DWord) (m n : Reg) (s : State) : Result :=
  finish (s.setReg n (f (s.reg n) (s.reg m)))

/-- `x[n] <- f(x[m])`, no flag. -/
def unaryOp (f : DWord → DWord) (m n : Reg) (s : State) : Result :=
  finish (s.setReg n (f (s.reg m)))

/-- `SR.T <- p(x[n], x[m])`, no register (the compares of file 45). -/
def compareOp (p : DWord → DWord → Bool) (m n : Reg) (s : State) : Result :=
  finish (s.withT (p (s.reg n) (s.reg m)))

/-- `x[n]` and `SR.T` from `f(x[n], x[m], SR.T)`. -/
def binaryFlagOp (f : DWord → DWord → Bool → DWord × Bool) (m n : Reg) (s : State) : Result :=
  let r := f (s.reg n) (s.reg m) s.t
  finish ((s.setReg n r.1).withT r.2)

/-- `x[n]` and `SR.T` from `f(x[n], SR.T)` (the one-bit shifts and rotates of file 47). -/
def unaryFlagOp (f : DWord → Bool → DWord × Bool) (n : Reg) (s : State) : Result :=
  let r := f (s.reg n) s.t
  finish ((s.setReg n r.1).withT r.2)

/-- A load from `ea` into `x[n]`, narrow values sign-extended (R77). -/
def loadTo (w : Width) (ea : DWord) (n : Reg) (s : State) : Result :=
  withLoad w ea s fun v s => finish (s.setReg n (extendLoad w v))

/-- A load through `@Rm+` into `x[n]`: the increment first, the loaded value last (R266 to R268). -/
def loadIncTo (w : Width) (m n : Reg) (s : State) : Result :=
  let ea := s.reg m
  withLoad w ea s fun v s => finish ((s.setReg m (ea + w.size)).setReg n (extendLoad w v))

/-- A store of the low bits of `v` at `ea` (R77). -/
def storeAt (w : Width) (ea v : DWord) (s : State) : Result :=
  withStore w ea v s finish

/-- A store through `@-Rn`: the value as it was before the decrement, the decrement after the store (R251 to R253). -/
def storeDecAt (w : Width) (n : Reg) (v : DWord) (s : State) : Result :=
  let ea := s.reg n - w.size
  withStore w ea v s fun s' => finish (s'.setReg n ea)

end Sys2Proof.Machine
end

