-- ==== Sys2Proof/Machine/Arith.lean ====
section
/-! DEFINITION. Meanings: arithmetic, extension and rearrangement (`46_arithmetic.md`). -/

namespace Sys2Proof.Machine

/-- `SUB Rm, Rn`, R350. -/
def execSub (m : Reg) (n : Reg) (s : State) : Result :=
  binaryOp (fun rn rm => rn - rm) m n s

/-- `SUBC Rm, Rn`, R351. -/
def execSubc (m : Reg) (n : Reg) (s : State) : Result :=
  binaryFlagOp subBorrow m n s

/-- `SUBV Rm, Rn`, R352. The old T is not an input. -/
def execSubv (m : Reg) (n : Reg) (s : State) : Result :=
  binaryFlagOp (fun rn rm _ => subOverflow rn rm) m n s

/-- `ADD Rm, Rn`, R353. -/
def execAdd (m : Reg) (n : Reg) (s : State) : Result :=
  binaryOp (fun rn rm => rn + rm) m n s

/-- `ADDC Rm, Rn`, R354. -/
def execAddc (m : Reg) (n : Reg) (s : State) : Result :=
  binaryFlagOp addCarry m n s

/-- `ADDV Rm, Rn`, R355. The old T is not an input. -/
def execAddv (m : Reg) (n : Reg) (s : State) : Result :=
  binaryFlagOp (fun rn rm _ => addOverflow rn rm) m n s

/-- `ADD #imm, Rn`, R356. -/
def execAddImm (i : BitVec 8) (n : Reg) (s : State) : Result :=
  finish (s.setReg n (s.reg n + immSigned i))

/-- `NEG Rm, Rn`, R357. -/
def execNeg (m : Reg) (n : Reg) (s : State) : Result :=
  unaryOp (fun rm => 0 - rm) m n s

/-- `NEGC Rm, Rn`, R358. The old `x[n]` is not an input. -/
def execNegc (m : Reg) (n : Reg) (s : State) : Result :=
  binaryFlagOp (fun _ rm t => subBorrow 0 rm t) m n s

/-- `DT Rn`, R359. -/
def execDt (n : Reg) (s : State) : Result :=
  unaryFlagOp (fun v _ => (v - 1, v - 1 == 0)) n s

/-- `EXTU.B Rm, Rn`, R360. -/
def execExtub (m : Reg) (n : Reg) (s : State) : Result :=
  unaryOp zext8 m n s

/-- `EXTU.W Rm, Rn`, R361. -/
def execExtuw (m : Reg) (n : Reg) (s : State) : Result :=
  unaryOp zext16 m n s

/-- `EXTS.B Rm, Rn`, R362. -/
def execExtsb (m : Reg) (n : Reg) (s : State) : Result :=
  unaryOp sext8 m n s

/-- `EXTS.W Rm, Rn`, R363. -/
def execExtsw (m : Reg) (n : Reg) (s : State) : Result :=
  unaryOp sext16 m n s

/-- `SWAP.B Rm, Rn`, R364. -/
def execSwapb (m : Reg) (n : Reg) (s : State) : Result :=
  unaryOp swapBytes m n s

/-- `SWAP.W Rm, Rn`, R365. -/
def execSwapw (m : Reg) (n : Reg) (s : State) : Result :=
  unaryOp swapWords m n s

/-- `XTRCT Rm, Rn`, R366. -/
def execXtrct (m : Reg) (n : Reg) (s : State) : Result :=
  binaryOp (fun rn rm => extractMiddle rm rn) m n s

end Sys2Proof.Machine
end

