-- ==== Sys2Proof/Machine/Branch.lean ====
section
/-! DEFINITION. Meanings: control transfer and the delay slot (`41_branch.md`). -/

namespace Sys2Proof.Machine

/-- `BSRF Rm`, R203. -/
def execBsrf (m : Reg) (s : State) : Result :=
  guardLegal (!s.inSlot) (.bsrf m) s (.next ({ s with pr := s.pc + 4 }.delayedBranch (s.pc + 4 + s.reg m)))

/-- `BRAF Rm`, R204. -/
def execBraf (m : Reg) (s : State) : Result :=
  guardLegal (!s.inSlot) (.braf m) s (.next (s.delayedBranch (s.pc + 4 + s.reg m)))

/-- `RTS`, R205. -/
def execRts (s : State) : Result :=
  guardLegal (!s.inSlot) .rts s (.next (s.delayedBranch s.pr))

/-- `RTS/N`, R206. -/
def execRtsN (s : State) : Result :=
  guardLegal (!s.inSlot) .rtsN s (.next (s.jump s.pr))

/-- `JSR Rm`, R207. -/
def execJsr (m : Reg) (s : State) : Result :=
  guardLegal (!s.inSlot) (.jsr m) s (.next ({ s with pr := s.pc + 4 }.delayedBranch (s.reg m)))

/-- `JMP Rm`, R208. -/
def execJmp (m : Reg) (s : State) : Result :=
  guardLegal (!s.inSlot) (.jmp m) s (.next (s.delayedBranch (s.reg m)))

/-- `BRA/N disp8`, R209. -/
def execBraN (d : BitVec 8) (s : State) : Result :=
  guardLegal (!s.inSlot) (.braN d) s (.next (s.jump (s.pc + 4 + branNDisp s.cfg.branDisp8 d)))

/-- `BT label`, R210. -/
def execBt (d : BitVec 8) (s : State) : Result :=
  guardLegal (!s.inSlot) (.bt d) s <|
    if s.t then .next (s.jump (s.pc + 4 + branchDisp8 d)) else finish s

/-- `BF label`, R211. -/
def execBf (d : BitVec 8) (s : State) : Result :=
  guardLegal (!s.inSlot) (.bf d) s <|
    if !s.t then .next (s.jump (s.pc + 4 + branchDisp8 d)) else finish s

/-- `BTS label`, R212. -/
def execBts (d : BitVec 8) (s : State) : Result :=
  guardLegal (!s.inSlot) (.bts d) s <|
    if s.t then .next (s.delayedBranch (s.pc + 4 + branchDisp8 d)) else finish s

/-- `BFS label`, R213. -/
def execBfs (d : BitVec 8) (s : State) : Result :=
  guardLegal (!s.inSlot) (.bfs d) s <|
    if !s.t then .next (s.delayedBranch (s.pc + 4 + branchDisp8 d)) else finish s

/-- `BRA label`, R214. -/
def execBra (d : BitVec 12) (s : State) : Result :=
  guardLegal (!s.inSlot) (.bra d) s (.next (s.delayedBranch (s.pc + 4 + branchDisp12 d)))

/-- `BSR label`, R215. -/
def execBsr (d : BitVec 12) (s : State) : Result :=
  guardLegal (!s.inSlot) (.bsr d) s (.next ({ s with pr := s.pc + 4 }.delayedBranch (s.pc + 4 + branchDisp12 d)))

end Sys2Proof.Machine
end

