-- ==== Sys2Proof/Machine/CacheAtomic.lean ====
section
/-! DEFINITION. Meanings: the cache instructions and compare-and-exchange (`42_cache_atomic.md`). -/

namespace Sys2Proof.Machine

/-- `PREF @Rn`, R230. No access is made and no exception raised, whatever the register holds. -/
def execPref (_n : Reg) (s : State) : Result :=
  finish s

/-- `MOVCA.L R0, @Rn`, R231. -/
def execMovcal (n : Reg) (s : State) : Result :=
  storeAt .long (s.reg n) (s.reg 0) s

/-- `ICBI @Rn`, R232. No access is made. -/
def execIcbi (n : Reg) (s : State) : Result :=
  finish (s.invalidateLine (s.reg n))

/-- `CAS.L Rm, Rn, @R0`, R233. One read and, when the values match, one write to the same aligned long, checked once as a read (R436). -/
def execCasl (m : Reg) (n : Reg) (s : State) : Result :=
  let ea := s.reg 0
  let expected := s.reg m
  let new := s.reg n
  withLoad .long ea s fun old s =>
    let s' := if old = expected then (s.writeMem .long ea new).withT true else s.withT false
    finish (s'.setReg n old)

end Sys2Proof.Machine
end

