-- ==== Sys2Proof/Machine/Logic.lean ====
section
/-! DEFINITION. Meanings: logic and compare (`45_logic_compare.md`). -/

namespace Sys2Proof.Machine

/-- `TST Rm, Rn`, R320. -/
def execTst (m : Reg) (n : Reg) (s : State) : Result :=
  compareOp (fun rn rm => rn &&& rm == 0) m n s

/-- `AND Rm, Rn`, R321. -/
def execAnd (m : Reg) (n : Reg) (s : State) : Result :=
  binaryOp (fun rn rm => rn &&& rm) m n s

/-- `XOR Rm, Rn`, R322. -/
def execXor (m : Reg) (n : Reg) (s : State) : Result :=
  binaryOp (fun rn rm => rn ^^^ rm) m n s

/-- `OR Rm, Rn`, R323. -/
def execOr (m : Reg) (n : Reg) (s : State) : Result :=
  binaryOp (fun rn rm => rn ||| rm) m n s

/-- `NOT Rm, Rn`, R324. -/
def execNot (m : Reg) (n : Reg) (s : State) : Result :=
  unaryOp (fun rm => ~~~rm) m n s

/-- `TST #imm, R0`, R325. -/
def execTstImm (j : BitVec 8) (s : State) : Result :=
  finish (s.withT (s.reg 0 &&& immUnsigned j == 0))

/-- `AND #imm, R0`, R326. -/
def execAndImm (j : BitVec 8) (s : State) : Result :=
  finish (s.setReg 0 (s.reg 0 &&& immUnsigned j))

/-- `XOR #imm, R0`, R327. -/
def execXorImm (j : BitVec 8) (s : State) : Result :=
  finish (s.setReg 0 (s.reg 0 ^^^ immUnsigned j))

/-- `OR #imm, R0`, R328. -/
def execOrImm (j : BitVec 8) (s : State) : Result :=
  finish (s.setReg 0 (s.reg 0 ||| immUnsigned j))

/-- `CMPSTR Rm, Rn`, R329. -/
def execCmpstr (m : Reg) (n : Reg) (s : State) : Result :=
  compareOp someByteEqual m n s

/-- `CMPEQ Rm, Rn`, R330. -/
def execCmpeq (m : Reg) (n : Reg) (s : State) : Result :=
  compareOp (fun rn rm => rn == rm) m n s

/-- `CMPHS Rm, Rn`, R331. -/
def execCmphs (m : Reg) (n : Reg) (s : State) : Result :=
  compareOp (fun rn rm => decide (rm.toNat ≤ rn.toNat)) m n s

/-- `CMPGE Rm, Rn`, R332. -/
def execCmpge (m : Reg) (n : Reg) (s : State) : Result :=
  compareOp (fun rn rm => decide (rm.toInt ≤ rn.toInt)) m n s

/-- `CMPHI Rm, Rn`, R333. -/
def execCmphi (m : Reg) (n : Reg) (s : State) : Result :=
  compareOp (fun rn rm => decide (rm.toNat < rn.toNat)) m n s

/-- `CMPGT Rm, Rn`, R334. -/
def execCmpgt (m : Reg) (n : Reg) (s : State) : Result :=
  compareOp (fun rn rm => decide (rm.toInt < rn.toInt)) m n s

/-- `CMPPZ Rn`, R335. -/
def execCmppz (n : Reg) (s : State) : Result :=
  finish (s.withT (decide (0 ≤ (s.reg n).toInt)))

/-- `CMPPL Rn`, R336. -/
def execCmppl (n : Reg) (s : State) : Result :=
  finish (s.withT (decide (0 < (s.reg n).toInt)))

/-- `CMPEQ #imm, R0`, R337. -/
def execCmpeqImm (i : BitVec 8) (s : State) : Result :=
  finish (s.withT (s.reg 0 == immSigned i))

end Sys2Proof.Machine
end

