-- ==== Sys2Proof/Machine/MulDiv.lean ====
section
/-! DEFINITION. Meanings: multiply and divide step (`44_multiply_divide.md`). -/

namespace Sys2Proof.Machine

/-- `MUL.L Rm, Rn`, R300. -/
def execMull (m : Reg) (n : Reg) (s : State) : Result :=
  finish { s with macl := s.reg n * s.reg m }

/-- `MULU.W Rm, Rn`, R301. -/
def execMuluw (m : Reg) (n : Reg) (s : State) : Result :=
  finish { s with macl := zext16 (s.reg n) * zext16 (s.reg m) }

/-- `MULS.W Rm, Rn`, R302. -/
def execMulsw (m : Reg) (n : Reg) (s : State) : Result :=
  finish { s with macl := sext16 (s.reg n) * sext16 (s.reg m) }

/-- `DMULU.L Rm, Rn`, R303. -/
def execDmulul (m : Reg) (n : Reg) (s : State) : Result :=
  let p := productUnsigned (s.reg n) (s.reg m)
  finish { s with mach := p.extractLsb' 32 32, macl := p.extractLsb' 0 32 }

/-- `DMULS.L Rm, Rn`, R304. -/
def execDmulsl (m : Reg) (n : Reg) (s : State) : Result :=
  let p := productSigned (s.reg n) (s.reg m)
  finish { s with mach := p.extractLsb' 32 32, macl := p.extractLsb' 0 32 }

/-- `DIV0U`, R305. -/
def execDiv0u (s : State) : Result :=
  finish (((s.withM false).withQ false).withT false)

/-- `DIV0S Rm, Rn`, R306. -/
def execDiv0s (m : Reg) (n : Reg) (s : State) : Result :=
  finish (((s.withQ (s.reg n).msb).withM (s.reg m).msb).withT ((s.reg n).msb ^^ (s.reg m).msb))

/-- `DIV1 Rm, Rn`, R307. -/
def execDiv1 (m : Reg) (n : Reg) (s : State) : Result :=
  let r := divStep (s.reg n) (s.reg m) s.q s.m s.t
  finish (((s.setReg n r.1).withQ r.2.1).withT r.2.2)

end Sys2Proof.Machine
end

