-- ==== Sys2Proof/Machine/Shift.lean ====
section
/-! DEFINITION. Meanings: shifts and rotates (`47_shift.md`). -/

namespace Sys2Proof.Machine

/-- `SHLL Rn`, R380. -/
def execShll (n : Reg) (s : State) : Result :=
  unaryFlagOp (fun v _ => (v <<< 1, v.msb)) n s

/-- `SHAL Rn`, R381. -/
def execShal (n : Reg) (s : State) : Result :=
  unaryFlagOp (fun v _ => (v <<< 1, v.msb)) n s

/-- `SHLR Rn`, R382. -/
def execShlr (n : Reg) (s : State) : Result :=
  unaryFlagOp (fun v _ => (v >>> 1, v.getLsbD 0)) n s

/-- `SHAR Rn`, R383. -/
def execShar (n : Reg) (s : State) : Result :=
  unaryFlagOp (fun v _ => (v.sshiftRight 1, v.getLsbD 0)) n s

/-- `ROTL Rn`, R384. -/
def execRotl (n : Reg) (s : State) : Result :=
  unaryFlagOp (fun v _ => ((v <<< 1) ||| bitDWord v.msb, v.msb)) n s

/-- `ROTR Rn`, R385. -/
def execRotr (n : Reg) (s : State) : Result :=
  unaryFlagOp (fun v _ => ((v >>> 1) ||| (bitDWord (v.getLsbD 0) <<< 31), v.getLsbD 0)) n s

/-- `ROTCL Rn`, R386. -/
def execRotcl (n : Reg) (s : State) : Result :=
  unaryFlagOp (fun v t => ((v <<< 1) ||| bitDWord t, v.msb)) n s

/-- `ROTCR Rn`, R387. -/
def execRotcr (n : Reg) (s : State) : Result :=
  unaryFlagOp (fun v t => ((v >>> 1) ||| (bitDWord t <<< 31), v.getLsbD 0)) n s

/-- `SHLL2 Rn`, R388. -/
def execShll2 (n : Reg) (s : State) : Result :=
  finish (s.setReg n (s.reg n <<< 2))

/-- `SHLL8 Rn`, R389. -/
def execShll8 (n : Reg) (s : State) : Result :=
  finish (s.setReg n (s.reg n <<< 8))

/-- `SHLL16 Rn`, R390. -/
def execShll16 (n : Reg) (s : State) : Result :=
  finish (s.setReg n (s.reg n <<< 16))

/-- `SHLR2 Rn`, R391. -/
def execShlr2 (n : Reg) (s : State) : Result :=
  finish (s.setReg n (s.reg n >>> 2))

/-- `SHLR8 Rn`, R392. -/
def execShlr8 (n : Reg) (s : State) : Result :=
  finish (s.setReg n (s.reg n >>> 8))

/-- `SHLR16 Rn`, R393. -/
def execShlr16 (n : Reg) (s : State) : Result :=
  finish (s.setReg n (s.reg n >>> 16))

/-- `SHLL4 Rn`, R394. -/
def execShll4 (n : Reg) (s : State) : Result :=
  finish (s.setReg n (s.reg n <<< 4))

/-- `SHLR4 Rn`, R395. -/
def execShlr4 (n : Reg) (s : State) : Result :=
  finish (s.setReg n (s.reg n >>> 4))

/-- `SHAD Rm, Rn`, R396. -/
def execShad (m : Reg) (n : Reg) (s : State) : Result :=
  binaryOp shiftArithmetic m n s

/-- `SHLD Rm, Rn`, R397. -/
def execShld (m : Reg) (n : Reg) (s : State) : Result :=
  binaryOp shiftLogical m n s

end Sys2Proof.Machine
end

