-- ==== Sys2Proof/Machine/System.lean ====
section
/-! DEFINITION. Meanings: the transfers of system and control registers, the flag operations, NOP and the moves of T (`40_system_registers.md`). -/

namespace Sys2Proof.Machine

/-- `STC CRm, Rn`, R165. -/
def execStc (m : CtrlIdx) (n : Reg) (s : State) : Result :=
  guardLegal (s.ctrlReadOk m) (.stc m n) s (finish (s.setReg n (s.readCtrl m)))

/-- `STS SRm, Rn`, R166. -/
def execSts (m : SysIdx) (n : Reg) (s : State) : Result :=
  guardLegal (s.sysOk m) (.sts m n) s (finish (s.setReg n (s.readSys m)))

/-- `STS.L SRm, @-Rn`, R167. -/
def execStsl (m : SysIdx) (n : Reg) (s : State) : Result :=
  guardLegal (s.sysOk m) (.stsl m n) s (storeDecAt .long n (s.readSys m) s)

/-- `STC.L CRm, @-Rn`, R168. The value stored is the one before the decrement. -/
def execStcl (m : CtrlIdx) (n : Reg) (s : State) : Result :=
  guardLegal (s.ctrlReadOk m) (.stcl m n) s (storeDecAt .long n (s.readCtrl m) s)

/-- `LDS.L @Rm+, SRo`, R169. -/
def execLdsl (m : Reg) (o : SysIdx) (s : State) : Result :=
  guardLegal (s.sysOk o) (.ldsl m o) s <|
    withLoad .long (s.reg m) s fun v u => finish ((u.setReg m (s.reg m + 4)).writeSys o v)

/-- `LDC.L @Rm+, CRo`, R170. The increment is made under the old SR, before the write of the control register. -/
def execLdcl (m : Reg) (o : CtrlIdx) (s : State) : Result :=
  guardLegal (s.ctrlWriteOk o) (.ldcl m o) s <|
    withLoad .long (s.reg m) s fun v u => finish ((u.setReg m (s.reg m + 4)).writeCtrl o v)

/-- `LDS Rm, SRo`, R171. -/
def execLds (m : Reg) (o : SysIdx) (s : State) : Result :=
  guardLegal (s.sysOk o) (.lds m o) s (finish (s.writeSys o (s.reg m)))

/-- `LDC Rm, CRo`, R172. -/
def execLdc (m : Reg) (o : CtrlIdx) (s : State) : Result :=
  guardLegal (s.ctrlWriteOk o) (.ldc m o) s (finish (s.writeCtrl o (s.reg m)))

/-- `CLRT`, R173. -/
def execClrt (s : State) : Result :=
  finish (s.withT false)

/-- `SETT`, R174. -/
def execSett (s : State) : Result :=
  finish (s.withT true)

/-- `CLRMAC`, R175. -/
def execClrmac (s : State) : Result :=
  finish { s with mach := 0, macl := 0 }

/-- `CLRS`, R176. -/
def execClrs (s : State) : Result :=
  finish (s.withS false)

/-- `SETS`, R177. -/
def execSets (s : State) : Result :=
  finish (s.withS true)

/-- `NOTT`, R178. -/
def execNott (s : State) : Result :=
  finish (s.withT (!s.t))

/-- `NOP`, R179. The field `i` is ignored (R135). -/
def execNop (_i : BitVec 4) (s : State) : Result :=
  finish s

/-- `MOVT Rn`, R180. -/
def execMovt (n : Reg) (s : State) : Result :=
  finish (s.setReg n (bitDWord s.t))

/-- `MOVRT Rn`, R181. -/
def execMovrt (n : Reg) (s : State) : Result :=
  finish (s.setReg n (bitDWord (!s.t)))

end Sys2Proof.Machine
end

