-- ==== Sys2Proof/Machine/Transfer.lean ====
section
/-! DEFINITION. Meanings: data transfer (`43_data_transfer.md`). -/

namespace Sys2Proof.Machine

/-- `MOV.B Rm, @(R0,Rn)`, R241. -/
def execMovbStoreR0 (m : Reg) (n : Reg) (s : State) : Result :=
  storeAt .byte (s.reg 0 + s.reg n) (s.reg m) s

/-- `MOV.W Rm, @(R0,Rn)`, R242. -/
def execMovwStoreR0 (m : Reg) (n : Reg) (s : State) : Result :=
  storeAt .word (s.reg 0 + s.reg n) (s.reg m) s

/-- `MOV.L Rm, @(R0,Rn)`, R243. -/
def execMovlStoreR0 (m : Reg) (n : Reg) (s : State) : Result :=
  storeAt .long (s.reg 0 + s.reg n) (s.reg m) s

/-- `MOV.B @(R0,Rm), Rn`, R244. -/
def execMovbLoadR0 (m : Reg) (n : Reg) (s : State) : Result :=
  loadTo .byte (s.reg 0 + s.reg m) n s

/-- `MOV.W @(R0,Rm), Rn`, R245. -/
def execMovwLoadR0 (m : Reg) (n : Reg) (s : State) : Result :=
  loadTo .word (s.reg 0 + s.reg m) n s

/-- `MOV.L @(R0,Rm), Rn`, R246. -/
def execMovlLoadR0 (m : Reg) (n : Reg) (s : State) : Result :=
  loadTo .long (s.reg 0 + s.reg m) n s

/-- `MOV.L Rm, @(Rn,disp)`, R247. -/
def execMovlStoreDisp (m : Reg) (n : Reg) (d : BitVec 4) (s : State) : Result :=
  storeAt .long (s.reg n + disp4 .long d) (s.reg m) s

/-- `MOV.B Rm, @Rn`, R248. -/
def execMovbStore (m : Reg) (n : Reg) (s : State) : Result :=
  storeAt .byte (s.reg n) (s.reg m) s

/-- `MOV.W Rm, @Rn`, R249. -/
def execMovwStore (m : Reg) (n : Reg) (s : State) : Result :=
  storeAt .word (s.reg n) (s.reg m) s

/-- `MOV.L Rm, @Rn`, R250. -/
def execMovlStore (m : Reg) (n : Reg) (s : State) : Result :=
  storeAt .long (s.reg n) (s.reg m) s

/-- `MOV.B Rm, @-Rn`, R251. -/
def execMovbStoreDec (m : Reg) (n : Reg) (s : State) : Result :=
  storeDecAt .byte n (s.reg m) s

/-- `MOV.W Rm, @-Rn`, R252. -/
def execMovwStoreDec (m : Reg) (n : Reg) (s : State) : Result :=
  storeDecAt .word n (s.reg m) s

/-- `MOV.L Rm, @-Rn`, R253. -/
def execMovlStoreDec (m : Reg) (n : Reg) (s : State) : Result :=
  storeDecAt .long n (s.reg m) s

/-- `MOV.B Rm, @(PC,R0)`, R254. -/
def execMovbStorePc (m : Reg) (s : State) : Result :=
  guardLegal (!s.inSlot) (.movbStorePc m) s (storeAt .byte (s.pcOperand + s.reg 0) (s.reg m) s)

/-- `MOV.W Rm, @(PC,R0)`, R255. -/
def execMovwStorePc (m : Reg) (s : State) : Result :=
  guardLegal (!s.inSlot) (.movwStorePc m) s (storeAt .word (s.pcOperand + s.reg 0) (s.reg m) s)

/-- `MOV.L Rm, @(PC,R0)`, R256. -/
def execMovlStorePc (m : Reg) (s : State) : Result :=
  guardLegal (!s.inSlot) (.movlStorePc m) s (storeAt .long (s.pcOperand + s.reg 0) (s.reg m) s)

/-- `MOV.B @(PC,R0), Rn`, R257. -/
def execMovbLoadPc (n : Reg) (s : State) : Result :=
  guardLegal (!s.inSlot) (.movbLoadPc n) s (loadTo .byte (s.pcOperand + s.reg 0) n s)

/-- `MOV.W @(PC,R0), Rn`, R258. -/
def execMovwLoadPc (n : Reg) (s : State) : Result :=
  guardLegal (!s.inSlot) (.movwLoadPc n) s (loadTo .word (s.pcOperand + s.reg 0) n s)

/-- `MOV.L @(PC,R0), Rn`, R259. -/
def execMovlLoadPc (n : Reg) (s : State) : Result :=
  guardLegal (!s.inSlot) (.movlLoadPc n) s (loadTo .long (s.pcOperand + s.reg 0) n s)

/-- `LEA.B @(PC,R0), Rn`, R260. -/
def execLeab (n : Reg) (s : State) : Result :=
  guardLegal (!s.inSlot) (.leab n) s (finish (s.setReg n (s.pcOperand + s.reg 0)))

/-- `MOV.L @(Rm,disp), Rn`, R261. -/
def execMovlLoadDisp (m : Reg) (d : BitVec 4) (n : Reg) (s : State) : Result :=
  loadTo .long (s.reg m + disp4 .long d) n s

/-- `MOV.B @Rm, Rn`, R262. -/
def execMovbLoad (m : Reg) (n : Reg) (s : State) : Result :=
  loadTo .byte (s.reg m) n s

/-- `MOV.W @Rm, Rn`, R263. -/
def execMovwLoad (m : Reg) (n : Reg) (s : State) : Result :=
  loadTo .word (s.reg m) n s

/-- `MOV.L @Rm, Rn`, R264. -/
def execMovlLoad (m : Reg) (n : Reg) (s : State) : Result :=
  loadTo .long (s.reg m) n s

/-- `MOV Rm, Rn`, R265. -/
def execMov (m : Reg) (n : Reg) (s : State) : Result :=
  unaryOp (fun rm => rm) m n s

/-- `MOV.B @Rm+, Rn`, R266. -/
def execMovbLoadInc (m : Reg) (n : Reg) (s : State) : Result :=
  loadIncTo .byte m n s

/-- `MOV.W @Rm+, Rn`, R267. -/
def execMovwLoadInc (m : Reg) (n : Reg) (s : State) : Result :=
  loadIncTo .word m n s

/-- `MOV.L @Rm+, Rn`, R268. -/
def execMovlLoadInc (m : Reg) (n : Reg) (s : State) : Result :=
  loadIncTo .long m n s

/-- `MOV.B R0, @(Rn,disp4)`, R269. -/
def execMovbStoreDisp (n : Reg) (d : BitVec 4) (s : State) : Result :=
  storeAt .byte (s.reg n + disp4 .byte d) (s.reg 0) s

/-- `MOV.W R0, @(Rn,disp4)`, R270. -/
def execMovwStoreDisp (n : Reg) (d : BitVec 4) (s : State) : Result :=
  storeAt .word (s.reg n + disp4 .word d) (s.reg 0) s

/-- `MOV.B @(Rm,disp), R0`, R271. -/
def execMovbLoadDisp (m : Reg) (d : BitVec 4) (s : State) : Result :=
  loadTo .byte (s.reg m + disp4 .byte d) 0 s

/-- `MOV.W @(Rm,disp), R0`, R272. -/
def execMovwLoadDisp (m : Reg) (d : BitVec 4) (s : State) : Result :=
  loadTo .word (s.reg m + disp4 .word d) 0 s

/-- `MOV.W @(PC,disp), Rn`, R273. -/
def execMovwLoadPcDisp (d : BitVec 8) (n : Reg) (s : State) : Result :=
  guardLegal (!s.inSlot) (.movwLoadPcDisp d n) s (loadTo .word (s.eaPcWord d) n s)

/-- `MOV.B R0, @(GBR,disp)`, R274. -/
def execMovbStoreGbr (d : BitVec 8) (s : State) : Result :=
  storeAt .byte (s.eaGbr .byte d) (s.reg 0) s

/-- `MOV.W R0, @(GBR,disp)`, R275. -/
def execMovwStoreGbr (d : BitVec 8) (s : State) : Result :=
  storeAt .word (s.eaGbr .word d) (s.reg 0) s

/-- `MOV.L R0, @(GBR,disp)`, R276. -/
def execMovlStoreGbr (d : BitVec 8) (s : State) : Result :=
  storeAt .long (s.eaGbr .long d) (s.reg 0) s

/-- `MOV.B @(GBR,disp), R0`, R277. -/
def execMovbLoadGbr (d : BitVec 8) (s : State) : Result :=
  loadTo .byte (s.eaGbr .byte d) 0 s

/-- `MOV.W @(GBR,disp), R0`, R278. -/
def execMovwLoadGbr (d : BitVec 8) (s : State) : Result :=
  loadTo .word (s.eaGbr .word d) 0 s

/-- `MOV.L @(GBR,disp), R0`, R279. -/
def execMovlLoadGbr (d : BitVec 8) (s : State) : Result :=
  loadTo .long (s.eaGbr .long d) 0 s

/-- `MOVA @(PC,disp), R0`, R280. -/
def execMova (d : BitVec 8) (s : State) : Result :=
  guardLegal (!s.inSlot) (.mova d) s (finish (s.setReg 0 (s.eaPcLong d)))

/-- `MOV.L @(PC,disp), Rn`, R281. -/
def execMovlLoadPcDisp (d : BitVec 8) (n : Reg) (s : State) : Result :=
  guardLegal (!s.inSlot) (.movlLoadPcDisp d n) s (loadTo .long (s.eaPcLong d) n s)

/-- `MOV #imm, Rn`, R282. -/
def execMovImm (i : BitVec 8) (n : Reg) (s : State) : Result :=
  finish (s.setReg n (immSigned i))

end Sys2Proof.Machine
end

