-- ==== Sys2Proof/Machine/Trap.lean ====
section
/-! DEFINITION. Meanings: traps, return and sleep (`48_system_trap.md`). -/

namespace Sys2Proof.Machine

/-- `TRAPA #imm`, R410. -/
def execTrapa (j : BitVec 8) (s : State) : Result :=
  guardLegal (!s.inSlot) (.trapa j) s (raise (.trapa j) (s.pc + 2) s)

/-- `RTE`, R411. -/
def execRte (s : State) : Result :=
  guardLegal (!s.inSlot && s.privOk) .rte s (.next s.returnFromException)

/-- `SLEEP`, R412. -/
def execSleep (s : State) : Result :=
  guardLegal (!s.inSlot && s.privOk) .sleep s (.next { s with sleeping := true, pc := s.pc + 2 })

/-- `BRK`, R413. -/
def execBrk (s : State) : Result :=
  guardLegal (!s.inSlot) .brk s (raise .breakpoint (s.pc + 2) s)

end Sys2Proof.Machine
end

