-- ==== Sys2Proof/Machine/Unimplemented.lean ====
section
/-! DEFINITION. Meanings: the five rows the source names without implementing them. Their words are undefined encodings (R130, R131), so each raises `IllegalInstruction`, or `SlotIllegalInstruction` in a delay slot; nothing else of theirs is given. -/

namespace Sys2Proof.Machine

/-- `LDTLB`, R131. -/
def execLdtlb (s : State) : Result :=
  raiseIllegal (encode .ldtlb) s

/-- `MOVUA.L R0, @Rm`, R131. -/
def execMovual (m : Reg) (s : State) : Result :=
  raiseIllegal (encode (.movual m)) s

/-- `MOVUA.L R0, @-Rm`, R131. -/
def execMovualDec (m : Reg) (s : State) : Result :=
  raiseIllegal (encode (.movualDec m)) s

/-- `JSR/N Rm`, R131. -/
def execJsrN (m : Reg) (s : State) : Result :=
  raiseIllegal (encode (.jsrN m)) s

/-- `RTV/N Rm`, R131. -/
def execRtvN (m : Reg) (s : State) : Result :=
  raiseIllegal (encode (.rtvN m)) s

end Sys2Proof.Machine
end

