-- ==== Sys2Proof/Machine/Dispatch.lean ====
section
/-! DEFINITION. One arm per instruction, each one call of its meaning. -/

namespace Sys2Proof.Machine

def exec (i : Instr) (s : State) : Host.Outcome State Fault Refusal :=
  match i with
  | .stc m n => Sys2Proof.Machine.execStc m n s
  | .sts m n => Sys2Proof.Machine.execSts m n s
  | .stsl m n => Sys2Proof.Machine.execStsl m n s
  | .stcl m n => Sys2Proof.Machine.execStcl m n s
  | .ldsl m o => Sys2Proof.Machine.execLdsl m o s
  | .ldcl m o => Sys2Proof.Machine.execLdcl m o s
  | .lds m o => Sys2Proof.Machine.execLds m o s
  | .ldc m o => Sys2Proof.Machine.execLdc m o s
  | .clrt => Sys2Proof.Machine.execClrt s
  | .sett => Sys2Proof.Machine.execSett s
  | .clrmac => Sys2Proof.Machine.execClrmac s
  | .clrs => Sys2Proof.Machine.execClrs s
  | .sets => Sys2Proof.Machine.execSets s
  | .nott => Sys2Proof.Machine.execNott s
  | .nop k => Sys2Proof.Machine.execNop k s
  | .movt n => Sys2Proof.Machine.execMovt n s
  | .movrt n => Sys2Proof.Machine.execMovrt n s
  | .bsrf m => Sys2Proof.Machine.execBsrf m s
  | .braf m => Sys2Proof.Machine.execBraf m s
  | .rts => Sys2Proof.Machine.execRts s
  | .rtsN => Sys2Proof.Machine.execRtsN s
  | .jsr m => Sys2Proof.Machine.execJsr m s
  | .jmp m => Sys2Proof.Machine.execJmp m s
  | .braN d => Sys2Proof.Machine.execBraN d s
  | .bt d => Sys2Proof.Machine.execBt d s
  | .bf d => Sys2Proof.Machine.execBf d s
  | .bts d => Sys2Proof.Machine.execBts d s
  | .bfs d => Sys2Proof.Machine.execBfs d s
  | .bra d => Sys2Proof.Machine.execBra d s
  | .bsr d => Sys2Proof.Machine.execBsr d s
  | .pref n => Sys2Proof.Machine.execPref n s
  | .movcal n => Sys2Proof.Machine.execMovcal n s
  | .icbi n => Sys2Proof.Machine.execIcbi n s
  | .casl m n => Sys2Proof.Machine.execCasl m n s
  | .movbStoreR0 m n => Sys2Proof.Machine.execMovbStoreR0 m n s
  | .movwStoreR0 m n => Sys2Proof.Machine.execMovwStoreR0 m n s
  | .movlStoreR0 m n => Sys2Proof.Machine.execMovlStoreR0 m n s
  | .movbLoadR0 m n => Sys2Proof.Machine.execMovbLoadR0 m n s
  | .movwLoadR0 m n => Sys2Proof.Machine.execMovwLoadR0 m n s
  | .movlLoadR0 m n => Sys2Proof.Machine.execMovlLoadR0 m n s
  | .movlStoreDisp m n d => Sys2Proof.Machine.execMovlStoreDisp m n d s
  | .movbStore m n => Sys2Proof.Machine.execMovbStore m n s
  | .movwStore m n => Sys2Proof.Machine.execMovwStore m n s
  | .movlStore m n => Sys2Proof.Machine.execMovlStore m n s
  | .movbStoreDec m n => Sys2Proof.Machine.execMovbStoreDec m n s
  | .movwStoreDec m n => Sys2Proof.Machine.execMovwStoreDec m n s
  | .movlStoreDec m n => Sys2Proof.Machine.execMovlStoreDec m n s
  | .movbStorePc m => Sys2Proof.Machine.execMovbStorePc m s
  | .movwStorePc m => Sys2Proof.Machine.execMovwStorePc m s
  | .movlStorePc m => Sys2Proof.Machine.execMovlStorePc m s
  | .movbLoadPc n => Sys2Proof.Machine.execMovbLoadPc n s
  | .movwLoadPc n => Sys2Proof.Machine.execMovwLoadPc n s
  | .movlLoadPc n => Sys2Proof.Machine.execMovlLoadPc n s
  | .leab n => Sys2Proof.Machine.execLeab n s
  | .movlLoadDisp m d n => Sys2Proof.Machine.execMovlLoadDisp m d n s
  | .movbLoad m n => Sys2Proof.Machine.execMovbLoad m n s
  | .movwLoad m n => Sys2Proof.Machine.execMovwLoad m n s
  | .movlLoad m n => Sys2Proof.Machine.execMovlLoad m n s
  | .mov m n => Sys2Proof.Machine.execMov m n s
  | .movbLoadInc m n => Sys2Proof.Machine.execMovbLoadInc m n s
  | .movwLoadInc m n => Sys2Proof.Machine.execMovwLoadInc m n s
  | .movlLoadInc m n => Sys2Proof.Machine.execMovlLoadInc m n s
  | .movbStoreDisp n d => Sys2Proof.Machine.execMovbStoreDisp n d s
  | .movwStoreDisp n d => Sys2Proof.Machine.execMovwStoreDisp n d s
  | .movbLoadDisp m d => Sys2Proof.Machine.execMovbLoadDisp m d s
  | .movwLoadDisp m d => Sys2Proof.Machine.execMovwLoadDisp m d s
  | .movwLoadPcDisp d n => Sys2Proof.Machine.execMovwLoadPcDisp d n s
  | .movbStoreGbr d => Sys2Proof.Machine.execMovbStoreGbr d s
  | .movwStoreGbr d => Sys2Proof.Machine.execMovwStoreGbr d s
  | .movlStoreGbr d => Sys2Proof.Machine.execMovlStoreGbr d s
  | .movbLoadGbr d => Sys2Proof.Machine.execMovbLoadGbr d s
  | .movwLoadGbr d => Sys2Proof.Machine.execMovwLoadGbr d s
  | .movlLoadGbr d => Sys2Proof.Machine.execMovlLoadGbr d s
  | .mova d => Sys2Proof.Machine.execMova d s
  | .movlLoadPcDisp d n => Sys2Proof.Machine.execMovlLoadPcDisp d n s
  | .movImm k n => Sys2Proof.Machine.execMovImm k n s
  | .mull m n => Sys2Proof.Machine.execMull m n s
  | .muluw m n => Sys2Proof.Machine.execMuluw m n s
  | .mulsw m n => Sys2Proof.Machine.execMulsw m n s
  | .dmulul m n => Sys2Proof.Machine.execDmulul m n s
  | .dmulsl m n => Sys2Proof.Machine.execDmulsl m n s
  | .div0u => Sys2Proof.Machine.execDiv0u s
  | .div0s m n => Sys2Proof.Machine.execDiv0s m n s
  | .div1 m n => Sys2Proof.Machine.execDiv1 m n s
  | .tst m n => Sys2Proof.Machine.execTst m n s
  | .and m n => Sys2Proof.Machine.execAnd m n s
  | .xor m n => Sys2Proof.Machine.execXor m n s
  | .or m n => Sys2Proof.Machine.execOr m n s
  | .not m n => Sys2Proof.Machine.execNot m n s
  | .tstImm j => Sys2Proof.Machine.execTstImm j s
  | .andImm j => Sys2Proof.Machine.execAndImm j s
  | .xorImm j => Sys2Proof.Machine.execXorImm j s
  | .orImm j => Sys2Proof.Machine.execOrImm j s
  | .cmpstr m n => Sys2Proof.Machine.execCmpstr m n s
  | .cmpeq m n => Sys2Proof.Machine.execCmpeq m n s
  | .cmphs m n => Sys2Proof.Machine.execCmphs m n s
  | .cmpge m n => Sys2Proof.Machine.execCmpge m n s
  | .cmphi m n => Sys2Proof.Machine.execCmphi m n s
  | .cmpgt m n => Sys2Proof.Machine.execCmpgt m n s
  | .cmppz n => Sys2Proof.Machine.execCmppz n s
  | .cmppl n => Sys2Proof.Machine.execCmppl n s
  | .cmpeqImm k => Sys2Proof.Machine.execCmpeqImm k s
  | .sub m n => Sys2Proof.Machine.execSub m n s
  | .subc m n => Sys2Proof.Machine.execSubc m n s
  | .subv m n => Sys2Proof.Machine.execSubv m n s
  | .add m n => Sys2Proof.Machine.execAdd m n s
  | .addc m n => Sys2Proof.Machine.execAddc m n s
  | .addv m n => Sys2Proof.Machine.execAddv m n s
  | .addImm k n => Sys2Proof.Machine.execAddImm k n s
  | .neg m n => Sys2Proof.Machine.execNeg m n s
  | .negc m n => Sys2Proof.Machine.execNegc m n s
  | .dt n => Sys2Proof.Machine.execDt n s
  | .extub m n => Sys2Proof.Machine.execExtub m n s
  | .extuw m n => Sys2Proof.Machine.execExtuw m n s
  | .extsb m n => Sys2Proof.Machine.execExtsb m n s
  | .extsw m n => Sys2Proof.Machine.execExtsw m n s
  | .swapb m n => Sys2Proof.Machine.execSwapb m n s
  | .swapw m n => Sys2Proof.Machine.execSwapw m n s
  | .xtrct m n => Sys2Proof.Machine.execXtrct m n s
  | .shll n => Sys2Proof.Machine.execShll n s
  | .shal n => Sys2Proof.Machine.execShal n s
  | .shlr n => Sys2Proof.Machine.execShlr n s
  | .shar n => Sys2Proof.Machine.execShar n s
  | .rotl n => Sys2Proof.Machine.execRotl n s
  | .rotr n => Sys2Proof.Machine.execRotr n s
  | .rotcl n => Sys2Proof.Machine.execRotcl n s
  | .rotcr n => Sys2Proof.Machine.execRotcr n s
  | .shll2 n => Sys2Proof.Machine.execShll2 n s
  | .shll8 n => Sys2Proof.Machine.execShll8 n s
  | .shll16 n => Sys2Proof.Machine.execShll16 n s
  | .shlr2 n => Sys2Proof.Machine.execShlr2 n s
  | .shlr8 n => Sys2Proof.Machine.execShlr8 n s
  | .shlr16 n => Sys2Proof.Machine.execShlr16 n s
  | .shll4 n => Sys2Proof.Machine.execShll4 n s
  | .shlr4 n => Sys2Proof.Machine.execShlr4 n s
  | .shad m n => Sys2Proof.Machine.execShad m n s
  | .shld m n => Sys2Proof.Machine.execShld m n s
  | .trapa j => Sys2Proof.Machine.execTrapa j s
  | .rte => Sys2Proof.Machine.execRte s
  | .sleep => Sys2Proof.Machine.execSleep s
  | .brk => Sys2Proof.Machine.execBrk s
  | .ldtlb => Sys2Proof.Machine.execLdtlb s
  | .movual m => Sys2Proof.Machine.execMovual m s
  | .movualDec m => Sys2Proof.Machine.execMovualDec m s
  | .jsrN m => Sys2Proof.Machine.execJsrN m s
  | .rtvN m => Sys2Proof.Machine.execRtvN m s

end Sys2Proof.Machine
end

