-- ==== Sys2Proof/Machine/Fetch.lean ====
section
/-! DEFINITION. What happens at an instruction boundary (`60_exceptions.md` R441), the fetch of an instruction
(`20_memory.md` R73, R76, R86), and the placing of one instruction word for the host. -/

namespace Sys2Proof.Machine

/-- The four things a step can do at its boundary (R441, R412). -/
inductive Boundary where
  /-- accept an interrupt of this level -/
  | accept (level : BitVec 4)
  /-- asleep, and no interrupt is accepted at this boundary -/
  | idle
  /-- asleep, and no interrupt will ever be accepted (R412) -/
  | stuck
  /-- fetch and execute the instruction at pc -/
  | run
  deriving DecidableEq, Repr

/-- A request is accepted: not between a delayed branch and its slot, SR.BL = 0, and the level above SR.IM (R441,
R442). Level 0 is never above (R440). -/
def State.accepts (s : State) (level : BitVec 4) : Bool :=
  !s.inSlot && !s.bl && decide (s.im.toNat < level.toNat)

/-- A request that the platform will make is one this state accepts. Sleep changes neither SR nor a pending branch, so
a sleep that this is false of cannot end: SR.BL = 1, or SR.IM too high (15 for every level), or no request left (R412;
log 18). -/
def State.canWake (s : State) : Bool :=
  s.irqs.any fun r =>
    match r with
    | some l => s.accepts l
    | none => false

/-- What a core does that accepts nothing at this boundary: while it sleeps it does nothing, or is stuck where no later
request can end the sleep (R412, R441). -/
def State.unaccepting (s : State) : Boundary :=
  if s.sleeping then (if s.canWake then .idle else .stuck) else .run

/-- The acceptance test of R441, for the request `irq` of this boundary and a state that holds those to come. -/
def boundary (irq : Option (BitVec 4)) (s : State) : Boundary :=
  match irq with
  | some l => if s.accepts l then .accept l else s.unaccepting
  | none => s.unaccepting

/-- What this boundary sees of the environment's input (R440; log 17). -/
def State.irqNow (s : State) : Option (BitVec 4) :=
  match s.irqs with
  | [] => none
  | r :: _ => r

/-- The state with this boundary's input consumed: the core keeps no pending request (R440). -/
def State.consumeIrq (s : State) : State := { s with irqs := s.irqs.tail }

/-- Acceptance of an interrupt: the trap sequence through `VEC_INTERRUPT`, with pc saved (R430, R433, R441). -/
def acceptInterrupt (level : BitVec 4) (s : State) : Result :=
  .next (s.enterTrap (.interrupt level) s.pc s.cfg.vecInterrupt)

/-- `w = MemRead(pc, 2)` without its checks (R73). -/
def State.fetchWord (s : State) : Word := (s.loadValue .word s.pc).setWidth 16

/-- The fetch: an odd pc is an address error with pc saved (R76, R433); then `MEM_MAP` (R79); a stale unit is refused
(R86); otherwise `k` of the instruction word and the state after the read. -/
def withFetch (s : State) (k : Word → State → Result) : Result :=
  if s.pc.getLsbD 0 then raise (.addressErrorRead s.pc) s.pc s
  else
    match s.accessRefusal .word s.pc with
    | some r => .refused r
    | none => if s.icacheStale.contains s.pc.toNat then .refused (.staleFetch s.pc)
      else k s.fetchWord (s.afterLoad .word s.pc)

/-- What the core does with a fetched word: execute the instruction it decodes to, by `meaning`, or raise the
exception of an undefined encoding (R115, R130). -/
def runWord (meaning : Instr → State → Result) (w : Word) (s : State) : Result :=
  match decode w with
  | .ok i => meaning i s
  | .error _ => raiseIllegal w s

/-- `MEM_MAP` with memory at the two bytes of `a`, if it had none there. -/
def State.mapWord (s : State) (a : DWord) : State :=
  if s.accessRefusal .word a = none ∧ s.atDevice a = false then s
  else { s with cfg := { s.cfg with memMap := { base := a.toNat, size := 2, kind := .memory } :: s.cfg.memMap } }

/-- `s` with the word `w` placed where the next step fetches, and awake with no request at that boundary: pc made
even, the unit not stale, the bytes in the machine's byte order (log 37, log 43). -/
def State.placeWord (s : State) (w : Word) : State :=
  let a := s.pc &&& 0xFFFFFFFE#32
  let s := (s.mapWord a).writeBytes .word a (w.setWidth 32)
  { s with
    pc := a
    sleeping := false
    icacheStale := s.icacheStale.filter fun u => u != a.toNat
    irqs := match s.irqs with
      | [] => []
      | _ :: rest => none :: rest }

end Sys2Proof.Machine
end

