-- ==== Sys2Proof/Machine/Step.lean ====
section
/-! DEFINITION. One step of the machine (`41_branch.md` R200, `60_exceptions.md` R441): the instruction boundary, then
the fetch, then the instruction. -/

namespace Sys2Proof.Machine

/-- One step (R200, R441). The meanings end the instruction themselves (`advance`, `jump`, `delayedBranch`). A sleeping
core that accepts nothing has a next state, equal but for the input used up (R441), while a request still to come can end
the sleep; a sleep that none can end has no next state (R412; log 18). -/
def step (s : State) : Host.Outcome State Fault Refusal :=
  let s' := s.consumeIrq
  match boundary s.irqNow s' with
  | .accept l => acceptInterrupt l s'
  | .idle => .next s'
  | .stuck => .fault .endlessSleep
  | .run => withFetch s' (runWord exec)

/-- `s` with the table word `w` of `nbits` bits placed where `step` fetches next (log 37, log 43). -/
def State.withFetchWord (s : State) (nbits w : Nat) : State := s.placeWord (BitVec.ofNat 16 (w % 2 ^ nbits))

end Sys2Proof.Machine
end

