-- ==== Sys2Proof/Safety.lean ====
section
/-! DEFINITION. What claims mean by a sound state, a safe step and the end of a run: the invariant that every step
keeps, when a step or a run neither faults nor is refused, and where a run ends. -/

namespace Sys2Proof.Machine

/-- `icache_stale` in its canonical form: even addresses below 2^32, strictly rising (R49). -/
def staleWf (l : List Nat) : Bool := rising l && l.all fun a => a % 2 == 0 && decide (a < 2 ^ 32)

/-- The bits of SR without a name are 0 (R41, R42). -/
def State.srReservedZero (s : State) : Bool := s.sr &&& ~~~srNamedBits == 0#32

/-- The invariant of the machine. -/
structure State.Inv (s : State) : Prop where
  /-- memory is in its canonical form (R70) -/
  mem : Memory.wf s.mem = true
  /-- the stale set is in its canonical form (R49) -/
  stale : staleWf s.icacheStale = true
  /-- the bits of SR without a name read 0 (R41), where `SR_WRITE_MASK` lets none of them be written -/
  sr : s.cfg.srWriteMask &&& ~~~srNamedBits = 0#32 → s.srReservedZero = true
  /-- the instruction in a delay slot stands at an even address (R76, R200) -/
  slot : s.inSlot = true → s.pc.getLsbD 0 = false
  /-- the core does not sleep in a delay slot (R201, R412) -/
  asleep : s.sleeping = true → s.inSlot = false

/-- What reached devices from `s` to `t`: the accesses made before stay as they are, those made since stand before
them, the newest first, each at an address of a device, and each read took one value of the platform's input (R83:
"accesses reach the device in program order and are neither merged, repeated nor elided"). -/
def State.devicesFollow (s t : State) : Prop :=
  ∃ new : List DeviceAccess, t.deviceLog = new ++ s.deviceLog ∧
    t.deviceInput = s.deviceInput.drop (new.countP DeviceAccess.isRead) ∧
    ∀ x ∈ new, s.cfg.kindAt x.address.toNat = some .device

/-- The state of the two bank bits on which every reading of `BANK_SELECT` agrees (R22). -/
def State.banksAgree (s : State) : Bool := s.md == s.rb

/-- The step from `s` has a next state: no fault, no refusal. -/
def safeStep (s : State) : Prop := ∃ t, step s = .next t

/-- `n` steps from `s` all have a next state. -/
def safeRun : Nat → State → Prop
  | 0, _ => True
  | n + 1, s => ∃ t, step s = .next t ∧ safeRun n t

/-- The core sleeps and no request that the platform will make wakes it (R412): `step` has no next state. -/
def State.asleepForGood (s : State) : Bool := s.sleeping && !s.canWake

/-- The core is about to execute the instruction at `stop`: awake, and with no delayed branch to come. -/
def State.reached (stop : DWord) (s : State) : Bool := s.pc == stop && !s.inSlot && !s.sleeping

/-- The end of a run, which R15 leaves to the model to define: pc reaches the address `stop` named for the run, or the
core has executed `SLEEP` with interrupts never arriving. It is a word about runs, and no chip halts there (log 47). -/
def State.ended (stop : DWord) (s : State) : Bool := s.reached stop || s.asleepForGood

/-- What has become of a run after a number of steps (R15; log 47). -/
inductive RunResult where
  /-- it has ended, in this state -/
  | ended (s : State)
  /-- it has not ended yet, and this is the state it is in -/
  | unfinished (s : State)
  /-- it stopped before its end: an exception was raised while SR.BL = 1 -/
  | fault (r : Fault)
  /-- it was refused before its end -/
  | refused (r : Refusal)
  deriving DecidableEq, Repr

/-- The run from `s` to its end, of at most `n` steps (R15; log 47). -/
def runTo (stop : DWord) : Nat → State → RunResult
  | 0, s => if s.ended stop then .ended s else .unfinished s
  | n + 1, s =>
    if s.ended stop then .ended s
    else
      match step s with
      | .next t => runTo stop n t
      | .fault r => .fault r
      | .refused r => .refused r

end Sys2Proof.Machine
end

