-- ==== Sys2Proof/Claims.lean ====
section
/-! DEFINITION. The words the statements are made of: what an instruction leaves unchanged, what it writes, and the
spec's formulas and tables written down a second time, apart from the meanings. -/

namespace Sys2Proof.Claim

open Sys2Proof.Machine

/-- `exec` answers a next state, and `P` holds of it. -/
def Runs (i : Instr) (s : State) (P : State → Prop) : Prop := ∃ t, exec i s = .next t ∧ P t

/-- The 32-bit registers that are neither general registers nor pc nor SR (R20, R45). -/
inductive Special where
  | gbr | vbr | ssr | spc | sgr | dbr | mach | macl | pr | fpul | fpscr
  deriving DecidableEq, Repr

/-- The contents of a special register. -/
def special (s : State) : Special → DWord
  | .gbr => s.gbr
  | .vbr => s.vbr
  | .ssr => s.ssr
  | .spc => s.spc
  | .sgr => s.sgr
  | .dbr => s.dbr
  | .mach => s.mach
  | .macl => s.macl
  | .pr => s.pr
  | .fpul => s.fpul
  | .fpscr => s.fpscr

/-- What stays from `s` to `t`: every physical general register of both banks but those listed, every SR bit outside
`srBits`, every special register but those listed, every byte of memory but those listed, the staleness of every unit
but those listed, the sleep bit, the ghost cause, the environment's input, what reached devices and the parameters. pc
and the pending delayed branch are not spoken of. -/
structure Frame (s t : State) (regs : List PhysReg) (srBits : DWord) (specials : List Special)
    (bytes : List DWord) (units : List Nat) : Prop where
  regs : ∀ p, p ∉ regs → t.readPhys p = s.readPhys p
  sr : ∀ i, srBits.getLsbD i = false → t.sr.getLsbD i = s.sr.getLsbD i
  special : ∀ x, x ∉ specials → special t x = special s x
  bytes : ∀ a, a ∉ bytes → t.byteAt a = s.byteAt a
  stale : ∀ u, u ∉ units → (u ∈ t.icacheStale ↔ u ∈ s.icacheStale)
  sleeping : t.sleeping = s.sleeping
  lastCause : t.lastCause = s.lastCause
  irqs : t.irqs = s.irqs
  deviceInput : t.deviceInput = s.deviceInput
  deviceLog : t.deviceLog = s.deviceLog
  cfg : t.cfg = s.cfg

/-- The instruction is followed in sequence: `pc + 2`, or, out of a delay slot, the target of the delayed branch,
which is then no longer pending (R25, R200). -/
def InSequence (s t : State) : Prop :=
  t.pc = s.delayTarget.getD (s.pc + 2) ∧ t.delayTarget = none

/-- `x[n]` becomes `v` and nothing else changes. -/
def SetsReg (s : State) (n : Reg) (v : DWord) (t : State) : Prop :=
  t.readPhys (s.physOf n) = v ∧ Frame s t [s.physOf n] 0 [] [] [] ∧ InSequence s t

/-- SR.T becomes `b` and nothing else changes. -/
def SetsT (s : State) (b : Bool) (t : State) : Prop :=
  t.sr.getLsbD 0 = b ∧ Frame s t [] 1 [] [] [] ∧ InSequence s t

/-- `x[n]` becomes `v`, SR.T becomes `b`, and nothing else changes. -/
def SetsRegT (s : State) (n : Reg) (v : DWord) (b : Bool) (t : State) : Prop :=
  t.readPhys (s.physOf n) = v ∧ t.sr.getLsbD 0 = b ∧ Frame s t [s.physOf n] 1 [] [] [] ∧ InSequence s t

/-- Nothing changes. -/
def Skips (s t : State) : Prop := Frame s t [] 0 [] [] [] ∧ InSequence s t

/-- Where `LDC` or `LDS` puts its value. -/
inductive Dest where
  | reg (p : PhysReg)
  | sr
  | special (x : Special)
  deriving DecidableEq, Repr

/-- The registers of a destination. -/
def Dest.regs : Dest → List PhysReg
  | .reg p => [p]
  | _ => []

/-- The SR bits of a destination. -/
def Dest.srBits : Dest → DWord
  | .sr => 0xFFFFFFFF
  | _ => 0

/-- The special registers of a destination. -/
def Dest.specials : Dest → List Special
  | .special x => [x]
  | _ => []

/-- The destination holds `v` in `t`; SR takes `v` under `SR_WRITE_MASK` (R161). -/
def Dest.holds (s : State) (d : Dest) (v : DWord) (t : State) : Prop :=
  match d with
  | .reg p => t.readPhys p = v
  | .sr => t.sr = v &&& s.cfg.srWriteMask
  | .special x => Claim.special t x = v

/-- Supervisor mode, or no privilege check (R164). -/
def priv (s : State) : Bool := s.sr.getLsbD 30 || !s.cfg.privCheck

/-- The physical register CR8+k names (R44): Bank B, or under the alternative view the bank that is not mapped. -/
def bankReg (s : State) (k : BitVec 3) : PhysReg :=
  if s.cfg.crBankView = .literalB then .bankB k else if s.bankBMapped then .bankA k else .bankB k

/-- What a read of CR index `i` returns, or none where it raises: the table of R160, row by row. -/
def crRead (s : State) (i : CtrlIdx) : Option DWord :=
  if i = 0 then (if priv s then some s.sr else none)
  else if i = 1 then some s.gbr
  else if i = 2 then (if priv s then some s.vbr else none)
  else if i = 3 then (if priv s then some s.ssr else none)
  else if i = 4 then (if priv s then some s.spc else none)
  else if i = 5 ∨ i = 6 then none
  else if i = 7 then (if s.delayTarget = none then some (s.pc + 4) else none)
  else if priv s then some (s.readPhys (bankReg s (i.extractLsb' 0 3))) else none

/-- Where a write of CR index `i` goes, or none where it raises: the table of R161 and the slot rule of R170 and
R172, row by row. -/
def crDest (s : State) (i : CtrlIdx) : Option Dest :=
  if i = 0 then (if priv s ∧ s.delayTarget = none then some .sr else none)
  else if i = 1 then some (.special .gbr)
  else if i = 2 then (if priv s then some (.special .vbr) else none)
  else if i = 3 then (if priv s then some (.special .ssr) else none)
  else if i = 4 then (if priv s then some (.special .spc) else none)
  else if i = 5 ∨ i = 6 ∨ i = 7 then none
  else if priv s then some (.reg (bankReg s (i.extractLsb' 0 3))) else none

/-- The register of SYS index `i`, or none where an access raises: the table of R162 and R163, row by row. -/
def sysOf (s : State) (i : SysIdx) : Option Special :=
  if i = 0 then some .mach
  else if i = 1 then some .macl
  else if i = 2 then some .pr
  else if i = 3 then (if priv s then some .sgr else none)
  else if i = 5 then (if s.cfg.hasFpuRegs then some .fpul else none)
  else if i = 6 then (if s.cfg.hasFpuRegs then some .fpscr else none)
  else if i = 15 then (if priv s then some .dbr else none)
  else none

/-! Memory, by the formulas of R72, and devices (R79, R83). -/

/-- The offset of the byte of weight `2^(8k)` in an access of `n` bytes (R72). -/
def weightOffset (s : State) (n k : Nat) : Nat := if s.cfg.endian = .little then k else n - 1 - k

/-- `sum over k of byte[...] * 2^(8k)` (R72). -/
def memValue (s : State) (n : Nat) (a : DWord) : Nat :=
  (List.range n).foldr (fun k acc => (s.byteAt (a + BitVec.ofNat 32 (weightOffset s n k))).toNat * 2 ^ (8 * k) + acc) 0

/-- `MEM_MAP` has a device at `a` (R79). -/
def OnDevice (s : State) (a : DWord) : Prop := s.cfg.kindAt a.toNat = some .device

/-- An access of `n` bytes at `a` is aligned, and every byte of it is memory or every byte a device's: it is answered
(R75, R79). -/
def Answered (s : State) (n : Nat) (a : DWord) : Prop :=
  a.toNat % n = 0 ∧ ∃ kind, ∀ k, k < n → s.cfg.kindAt (a.toNat + k) = some kind

/-- The unsigned value a read of `n` bytes at `a` returns: memory's by the sum of R72, or the device's, which is the
low `n` bytes of the platform's next value, a free value where none is given (R79; log 46). -/
def valueAt (s : State) (n : Nat) (a : DWord) : Nat :=
  if s.cfg.kindAt a.toNat = some .device then
    ((s.deviceInput.head?).getD (Config.deviceValue s.deviceLog.length)).toNat % 2 ^ (8 * n)
  else memValue s n a

/-- What a load of `n` bytes puts in its register: the value, sign-extended from `8n` bits (R77). -/
def loaded (s : State) (n : Nat) (a : DWord) : DWord := (BitVec.ofNat (8 * n) (valueAt s n a)).signExtend 32

/-- `s` after a read of `n` bytes at `a`: memory is not changed by it, and a device has answered one access with one
value of its input (R79, R83). -/
def afterRead (s : State) (n : Nat) (a : DWord) : State :=
  if s.cfg.kindAt a.toNat = some .device then
    { s with
      deviceInput := s.deviceInput.tail
      deviceLog := .read n a (BitVec.ofNat 32 (valueAt s n a)) :: s.deviceLog }
  else s

/-- `s` after a device, if there is one at `a`, has been given the low `8n` bits of `v` in one access (R79, R83). -/
def afterWrite (s : State) (n : Nat) (a v : DWord) : State :=
  if s.cfg.kindAt a.toNat = some .device then
    { s with deviceLog := .write n a (BitVec.ofNat 32 (v.toNat % 2 ^ (8 * n))) :: s.deviceLog }
  else s

/-- The addresses of the bytes of memory a store of `n` bytes at `a` writes: none where a device answers it. -/
def bytesStored (s : State) (n : Nat) (a : DWord) : List DWord :=
  if s.cfg.kindAt a.toNat = some .device then [] else (List.range n).map fun k => a + BitVec.ofNat 32 k

/-- The 2-byte units an access of `n` bytes touches (R49). -/
def unitsTouched (n : Nat) (a : DWord) : List Nat :=
  (List.range n).map fun k => (a + BitVec.ofNat 32 k).toNat / 2 * 2

/-- The low `8n` bits of `v` lie at `a` in `t`, unless a device answers there, and every unit touched is stale for the
fetcher (R72, R86). -/
def Stored (s t : State) (n : Nat) (a v : DWord) : Prop :=
  (¬OnDevice s a → ∀ k, k < n → t.byteAt (a + BitVec.ofNat 32 (weightOffset s n k)) = v.extractLsb' (8 * k) 8) ∧
    ∀ u, u ∈ unitsTouched n a → u ∈ t.icacheStale

/-- `n` bytes are loaded from `a` into `x[r]` and nothing else changes but what a device at `a` was asked. -/
def Loads (s : State) (n : Nat) (a : DWord) (r : Reg) (t : State) : Prop :=
  SetsReg (afterRead s n a) r (loaded s n a) t

/-- `n` bytes of `v` are stored at `a`, in memory or to the device there, and nothing else changes. -/
def Stores (s : State) (n : Nat) (a v : DWord) (t : State) : Prop :=
  Stored s t n a v ∧ Frame (afterWrite s n a v) t [] 0 [] (bytesStored s n a) (unitsTouched n a) ∧ InSequence s t

/-- `n` bytes of `v` are stored at `a`, `x[r]` becomes `a`, and nothing else changes. -/
def StoresDec (s : State) (n : Nat) (r : Reg) (a v : DWord) (t : State) : Prop :=
  Stored s t n a v ∧ t.readPhys (s.physOf r) = a ∧
    Frame (afterWrite s n a v) t [s.physOf r] 0 [] (bytesStored s n a) (unitsTouched n a) ∧ InSequence s t

/-- `x[m]` steps past the access and `x[n]`, written last, holds the value loaded; nothing else changes. -/
def LoadsInc (s : State) (k : Nat) (m n : Reg) (t : State) : Prop :=
  t.readPhys (s.physOf n) = loaded s k (s.reg m) ∧
    (m ≠ n → t.readPhys (s.physOf m) = s.reg m + BitVec.ofNat 32 k) ∧
    Frame (afterRead s k (s.reg m)) t [s.physOf m, s.physOf n] 0 [] [] [] ∧ InSequence s t

/-! Traps. -/

/-- The state right after an exception is taken: the list of R430. -/
structure Entered (s : State) (c : Cause) (saved off : DWord) (t : State) : Prop where
  spc : t.spc = saved
  ssr : t.ssr = s.sr
  sgr : t.sgr = s.reg 15
  md : t.sr.getLsbD 30 = true
  rb : t.sr.getLsbD 29 = true
  bl : t.sr.getLsbD 28 = true
  pc : t.pc = s.vbr + off
  cause : t.lastCause = some c
  awake : t.sleeping = false
  slot : t.delayTarget = none
  regs : ∀ p, t.readPhys p = s.readPhys p
  sr : ∀ i, i ≠ 28 → i ≠ 29 → i ≠ 30 → t.sr.getLsbD i = s.sr.getLsbD i
  special : ∀ x, x ≠ .spc → x ≠ .ssr → x ≠ .sgr → special t x = special s x
  bytes : ∀ a, t.byteAt a = s.byteAt a
  stale : t.icacheStale = s.icacheStale
  irqs : t.irqs = s.irqs
  deviceInput : t.deviceInput = s.deviceInput
  deviceLog : t.deviceLog = s.deviceLog
  cfg : t.cfg = s.cfg

/-- The address saved for an exception of kind `c` raised at `s`, by the table of R433; at an odd pc the fetch address,
also where a delayed branch is pending (log 39). -/
def savedFor (s : State) : Cause → DWord
  | .interrupt _ => s.pc
  | .trapa _ | .breakpoint => s.pc + 2
  | .illegalInstruction _ => s.pc
  | .slotIllegalInstruction _ => s.pc - 2
  | .addressErrorRead _ | .addressErrorWrite _ =>
    if s.delayTarget = none ∨ s.pc.getLsbD 0 = true then s.pc else s.pc - 2

/-- The vector offset of an exception of kind `c` (R431). -/
def offsetFor (s : State) : Cause → DWord
  | .interrupt _ => s.cfg.vecInterrupt
  | _ => s.cfg.vecGeneral

/-- The saved pc of a fault (R433): the delayed branch when the instruction stands in a delay slot. -/
def savedPc (s : State) : DWord := if s.delayTarget = none then s.pc else s.pc - 2

/-- The illegal-instruction exception of the place (R423, R424). -/
def illegalCause (s : State) (w : Word) : Cause :=
  if s.delayTarget = none then .illegalInstruction w else .slotIllegalInstruction w

/-- `i` raises the illegal-instruction exception of its place and does nothing else. -/
def RaisesIllegal (i : Instr) (s : State) : Prop :=
  Runs i s (Entered s (illegalCause s (encode i)) (savedPc s) s.cfg.vecGeneral)

/-- The instructions that may not stand in a delay slot (R201), whatever the mode. -/
def slotForbidden : Instr → Bool
  | .bsrf _ | .braf _ | .rts | .rtsN | .jsr _ | .jmp _ | .braN _ | .bt _ | .bf _ | .bts _ | .bfs _ | .bra _
  | .bsr _ => true
  | .rte | .trapa _ | .brk | .sleep => true
  | .ldc _ o => o = 0
  | .ldcl _ o => o = 0
  | .movwLoadPcDisp _ _ | .movlLoadPcDisp _ _ | .mova _ => true
  | .movbStorePc _ | .movwStorePc _ | .movlStorePc _ | .movbLoadPc _ | .movwLoadPc _ | .movlLoadPc _
  | .leab _ => true
  | .stc m _ => m = 7
  | .stcl m _ => m = 7
  | .ldtlb | .movual _ | .movualDec _ | .jsrN _ | .rtvN _ => true
  | _ => false

/-- A CR index that is privileged (R164). -/
def crPrivileged (i : CtrlIdx) : Bool := i = 0 || i = 2 || i = 3 || i = 4 || i.getLsbD 3

/-- The privileged instructions (R164, R451). -/
def privileged : Instr → Bool
  | .rte | .sleep => true
  | .stc m _ | .stcl m _ => crPrivileged m
  | .ldc _ o | .ldcl _ o => crPrivileged o
  | .sts m _ | .stsl m _ => m = 3 || m = 15
  | .lds _ o | .ldsl _ o => o = 3 || o = 15
  | _ => false

/-- A register index that names no register an access could reach (R423 item 3). -/
def reservedIndex (s : State) : Instr → Bool
  | .stc m _ | .stcl m _ => m = 5 || m = 6
  | .ldc _ o | .ldcl _ o => o = 5 || o = 6 || o = 7
  | .sts m _ | .stsl m _ | .lds _ m | .ldsl _ m =>
    m = 4 || (decide (7 ≤ m.toNat) && decide (m.toNat ≤ 14)) || ((m = 5 || m = 6) && !s.cfg.hasFpuRegs)
  | _ => false

/-- The five rows named without being implemented (R131). -/
def unimplemented : Instr → Bool
  | .ldtlb | .movual _ | .movualDec _ | .jsrN _ | .rtvN _ => true
  | _ => false

/-- The one data access an instruction makes (R283 e): whether it is reported as a write, its size, its address.
`CAS.L` is checked once, as a read (R436). -/
def access (s : State) : Instr → Option (Bool × Nat × DWord)
  | .movbStoreR0 _ n => some (true, 1, s.reg 0 + s.reg n)
  | .movwStoreR0 _ n => some (true, 2, s.reg 0 + s.reg n)
  | .movlStoreR0 _ n => some (true, 4, s.reg 0 + s.reg n)
  | .movbLoadR0 m _ => some (false, 1, s.reg 0 + s.reg m)
  | .movwLoadR0 m _ => some (false, 2, s.reg 0 + s.reg m)
  | .movlLoadR0 m _ => some (false, 4, s.reg 0 + s.reg m)
  | .movlStoreDisp _ n d => some (true, 4, s.reg n + BitVec.ofNat 32 (4 * d.toNat))
  | .movlLoadDisp m d _ => some (false, 4, s.reg m + BitVec.ofNat 32 (4 * d.toNat))
  | .movbStore _ n => some (true, 1, s.reg n)
  | .movwStore _ n => some (true, 2, s.reg n)
  | .movlStore _ n => some (true, 4, s.reg n)
  | .movbLoad m _ => some (false, 1, s.reg m)
  | .movwLoad m _ => some (false, 2, s.reg m)
  | .movlLoad m _ => some (false, 4, s.reg m)
  | .movbStoreDec _ n => some (true, 1, s.reg n - 1)
  | .movwStoreDec _ n => some (true, 2, s.reg n - 2)
  | .movlStoreDec _ n => some (true, 4, s.reg n - 4)
  | .movbLoadInc m _ => some (false, 1, s.reg m)
  | .movwLoadInc m _ => some (false, 2, s.reg m)
  | .movlLoadInc m _ => some (false, 4, s.reg m)
  | .movbStorePc _ => some (true, 1, s.pc + 4 + s.reg 0)
  | .movwStorePc _ => some (true, 2, s.pc + 4 + s.reg 0)
  | .movlStorePc _ => some (true, 4, s.pc + 4 + s.reg 0)
  | .movbLoadPc _ => some (false, 1, s.pc + 4 + s.reg 0)
  | .movwLoadPc _ => some (false, 2, s.pc + 4 + s.reg 0)
  | .movlLoadPc _ => some (false, 4, s.pc + 4 + s.reg 0)
  | .movbStoreDisp n d => some (true, 1, s.reg n + BitVec.ofNat 32 d.toNat)
  | .movwStoreDisp n d => some (true, 2, s.reg n + BitVec.ofNat 32 (2 * d.toNat))
  | .movbLoadDisp m d => some (false, 1, s.reg m + BitVec.ofNat 32 d.toNat)
  | .movwLoadDisp m d => some (false, 2, s.reg m + BitVec.ofNat 32 (2 * d.toNat))
  | .movwLoadPcDisp d _ => some (false, 2, s.pc + 4 + BitVec.ofNat 32 (2 * d.toNat))
  | .movlLoadPcDisp d _ => some (false, 4, ((s.pc + 4) &&& 0xFFFFFFFC) + BitVec.ofNat 32 (4 * d.toNat))
  | .movbStoreGbr d => some (true, 1, s.gbr + BitVec.ofNat 32 d.toNat)
  | .movwStoreGbr d => some (true, 2, s.gbr + BitVec.ofNat 32 (2 * d.toNat))
  | .movlStoreGbr d => some (true, 4, s.gbr + BitVec.ofNat 32 (4 * d.toNat))
  | .movbLoadGbr d => some (false, 1, s.gbr + BitVec.ofNat 32 d.toNat)
  | .movwLoadGbr d => some (false, 2, s.gbr + BitVec.ofNat 32 (2 * d.toNat))
  | .movlLoadGbr d => some (false, 4, s.gbr + BitVec.ofNat 32 (4 * d.toNat))
  | .movcal n => some (true, 4, s.reg n)
  | .casl _ _ => some (false, 4, s.reg 0)
  | .stsl _ n => some (true, 4, s.reg n - 4)
  | .stcl _ n => some (true, 4, s.reg n - 4)
  | .ldsl m _ => some (false, 4, s.reg m)
  | .ldcl m _ => some (false, 4, s.reg m)
  | _ => none

/-- No check of R436 (2) to (4) fails: not forbidden where it stands, not privileged in user mode, no reserved
index. -/
def legalHere (s : State) (i : Instr) : Bool :=
  !(slotForbidden i && s.delayTarget.isSome) && (!privileged i || priv s) && !reservedIndex s i

/-- The displacement of a conditional branch, `2 * s(sext_8(d))` (R113). -/
def disp8Signed (d : BitVec 8) : DWord := BitVec.ofInt 32 (2 * d.toInt)

/-- The displacement of `BRA` and `BSR`, `2 * s(sext_12(d))` (R113). -/
def disp12Signed (d : BitVec 12) : DWord := BitVec.ofInt 32 (2 * d.toInt)

/-- A delayed branch to `target`: the slot is next, and `PR` becomes `link` if there is a link (R200). -/
def Delayed (s : State) (target : DWord) (link : Option DWord) (t : State) : Prop :=
  t.pc = s.pc + 2 ∧ t.delayTarget = some target ∧ (∀ v, link = some v → t.pr = v) ∧
    Frame s t [] 0 (match link with | some _ => [Special.pr] | none => []) [] []

/-- A branch without a delay slot to `target`, or none (R200). -/
def Jumps (s : State) (target : DWord) (t : State) : Prop :=
  t.pc = target ∧ t.delayTarget = none ∧ Frame s t [] 0 [] [] []

/-- A flag as a number, 0 or 1. -/
def flag (b : Bool) : Nat := if b then 1 else 0

/-- SR.T (R33). -/
def srT (s : State) : Bool := s.sr.getLsbD 0

/-- An interrupt of level `l` is accepted at this boundary (R441). -/
def Accepts (s : State) (l : BitVec 4) : Prop :=
  s.delayTarget = none ∧ s.sr.getLsbD 28 = false ∧ s.sr.toNat / 16 % 16 < l.toNat

/-- This step fetches: no request at the boundary is accepted, the core is awake, pc is even, memory or a device answers
there and the unit is not stale; `w` is the word read (R73, R76, R79, R86, R441). -/
structure Fetches (s : State) (w : Word) : Prop where
  quiet : ∀ l, s.irqs.head? = some (some l) → ¬Accepts s l
  awake : s.sleeping = false
  answered : Answered s 2 s.pc
  fresh : s.pc.toNat ∉ s.icacheStale
  word : w.toNat = valueAt s 2 s.pc

/-- The state with this boundary's input used up (R440; log 17). -/
def afterBoundary (s : State) : State := { s with irqs := s.irqs.tail }

/-- The state as the instruction of this step sees it: the boundary's input is used up, and at an even pc the word has
been read (R441, R76). -/
def fetched (s : State) : State :=
  if s.pc.getLsbD 0 then afterBoundary s else afterRead (afterBoundary s) 2 s.pc

/-- The state as an exception of kind `c` finds it: an interrupt is taken before the fetch (R441). -/
def foundBy (s : State) : Cause → State
  | .interrupt _ => afterBoundary s
  | _ => fetched s

/-- A coming boundary has a request that is accepted if the core stays as it is (R412, R441). -/
def WillWake (s : State) : Prop := ∃ l, some l ∈ s.irqs ∧ Accepts s l

/-- The word that a fetch at pc reads (R73, R76). -/
def wordAt (s : State) : Word := BitVec.ofNat 16 (valueAt s 2 s.pc)

/-- The value that a storing instruction hands over, before it is cut to the size of the access (R77). -/
def storedValue (s : State) : Instr → DWord
  | .movbStoreR0 m _ | .movwStoreR0 m _ | .movlStoreR0 m _ | .movlStoreDisp m _ _ => s.reg m
  | .movbStore m _ | .movwStore m _ | .movlStore m _ => s.reg m
  | .movbStoreDec m _ | .movwStoreDec m _ | .movlStoreDec m _ => s.reg m
  | .movbStorePc m | .movwStorePc m | .movlStorePc m => s.reg m
  | .movbStoreDisp _ _ | .movwStoreDisp _ _ | .movbStoreGbr _ | .movwStoreGbr _ | .movlStoreGbr _ | .movcal _ => s.reg 0
  | .stcl m _ => (crRead s m).getD 0
  | .stsl m _ => ((sysOf s m).map (special s)).getD 0
  | _ => 0

/-- `s` after the data accesses that `i` makes at devices, if it makes them: it passes its checks and its address is
aligned. `CAS.L` makes a read, and a write where the value read is that of Rm; every other instruction makes at most one
access (R78, R283 e, R436). -/
def accessed (s : State) (i : Instr) : State :=
  match access s i with
  | none => s
  | some (write, n, a) =>
    if legalHere s i = true ∧ a.toNat % n = 0 then
      match i with
      | .casl m r =>
        if loaded s 4 a = s.reg m then afterWrite (afterRead s 4 a) 4 a (s.reg r) else afterRead s 4 a
      | _ => if write then afterWrite s n a (storedValue s i) else afterRead s n a
    else s

/-- What reached devices and what they will deliver is the same in both. -/
def SameDevices (s t : State) : Prop := t.deviceLog = s.deviceLog ∧ t.deviceInput = s.deviceInput

/-- How far `SHAD` and `SHLD` shift left, where the amount is not negative (R398). -/
def leftCount (amount : DWord) : Nat := amount.toNat % 32

/-- How far `SHAD` and `SHLD` shift right, where the amount is negative: 1 to 32 (R398). -/
def rightCount (amount : DWord) : Nat := 32 - amount.toNat % 32

end Sys2Proof.Claim
end

