-- ==== Sys2Proof/Certificates/Slice0/Obligations.lean ====
section
/-! DEFINITION. The statements for the provers. A basis word stands in each docstring: STATED where the numbered
rules carry no mark of the spec's own; DERIVED where the rule is the spec's decision (D<n>), its general knowledge or
a log entry of the model. -/

open Sys2Proof Sys2Proof.Machine Sys2Proof.Claim

/-! Encoding. -/

/-- DERIVED (30_encoding.md sections 1 to 3). No bit of any encoding is dropped: for every instruction, with every
operand at every value its field admits, the decoder gives it back from its word, and from the two bytes of its word
in either byte order with whatever follows them. -/
def Obligations.DecodeInvertsEncode : Prop :=
  (∀ i : Instr, decode (encode i) = .ok i) ∧
    ∀ (e : Endian) (i : Instr) (rest : List Byte),
      decodeBytes e ((bytesOfWord e (encode i)).1 :: (bytesOfWord e (encode i)).2 :: rest) = .ok (i, rest)

/-- DERIVED (30_encoding.md section 3). Each word has at most one meaning: a word that decodes to an instruction is
that instruction's encoding. -/
def Obligations.EncodeInvertsDecode : Prop :=
  ∀ (w : Word) (i : Instr), decode w = .ok i → encode i = w

/-- DERIVED (30_encoding.md sections 2 and 3, and the examples of files 40 to 48). Words of the spec's examples decode to
the instructions they stand for. -/
def Obligations.ExampleWordsDecode : Prop :=
  decode 0x321C = .ok (.add 1 2) ∧ decode 0x2F16 = .ok (.movlStoreDec 1 15) ∧ decode 0x1F43 = .ok (.movlStoreDisp 4 15 3) ∧
  decode 0x54FF = .ok (.movlLoadDisp 15 15 4) ∧ decode 0x8541 = .ok (.movwLoadDisp 4 1) ∧
  decode 0xAFFE = .ok (.bra 0xFFE) ∧ decode 0x430B = .ok (.jsr 3) ∧ decode 0x4F13 = .ok (.stcl 1 15) ∧
  decode 0x442A = .ok (.lds 4 2) ∧ decode 0xE37F = .ok (.movImm 0x7F 3) ∧ decode 0xC321 = .ok (.trapa 33) ∧
  decode 0x2213 = .ok (.casl 1 2) ∧ decode 0x421D = .ok (.shld 1 2) ∧ decode 0x3214 = .ok (.div1 1 2)

/-- DERIVED (30_encoding.md section 4, D7, D8). The words that R132 to R134 leave without an instruction hold none: the
reserved blocks `Fxxx`, `0zz0`, `0zz1`; every row of R132 set aside for extensions; the words of the thirteen
zero-operand rows with another nibble 2; and the other words R134 names. -/
def Obligations.ReservedWordsHoldNoInstruction : Prop :=
  (∀ a b c : BitVec 4, decode (0xF#4 ++ a ++ b ++ c) = .error .fpuBlock) ∧
  (∀ a b : BitVec 4, decode (0x0#4 ++ a ++ b ++ 0x0#4) = .error .reserved32) ∧
  (∀ a b : BitVec 4, decode (0x0#4 ++ a ++ b ++ 0x1#4) = .error .reserved32) ∧
  (∀ n m : BitVec 4, decode (0x0#4 ++ n ++ m ++ 0xF#4) = .error .extensionSlot ∧
    decode (0x4#4 ++ n ++ m ++ 0xF#4) = .error .extensionSlot ∧
    decode (0x3#4 ++ n ++ m ++ 0x1#4) = .error .extensionSlot ∧
    decode (0x3#4 ++ n ++ m ++ 0x9#4) = .error .extensionSlot) ∧
  (∀ n : BitVec 4, ∀ low ∈ ([0x61, 0x71, 0xA1, 0xB1, 0x14, 0x44, 0x54, 0xA5, 0xB5, 0x38, 0x48, 0x58, 0x68, 0x78, 0x39,
      0xA9, 0xE9, 0x1B, 0x8B, 0x9B, 0xAB, 0xCB, 0xDB, 0xEB] : List (BitVec 8)),
    decode (0x4#4 ++ n ++ low) = .error .extensionSlot) ∧
  (∀ low : BitVec 8, ∀ high ∈ ([0x83, 0x86, 0x87, 0x8A, 0x8C, 0x8E, 0xCC, 0xCD, 0xCE, 0xCF] : List (BitVec 8)),
    decode (high ++ low) = .error .extensionSlot) ∧
  (∀ n : BitVec 4, n ≠ 0 → ∀ low ∈ ([0x08, 0x18, 0x28, 0x38, 0x48, 0x58, 0x68, 0x19, 0x0B, 0x1B, 0x2B, 0x3B, 0x6B] :
      List (BitVec 8)), decode (0x0#4 ++ n ++ low) = .error .unlisted) ∧
  ∀ n : BitVec 4, decode (0x0#4 ++ n ++ 0x33#8) = .error .unlisted ∧ decode (0x0#4 ++ n ++ 0xD3#8) = .error .unlisted ∧
    decode (0x0#4 ++ n ++ 0x78#8) = .error .unlisted ∧
    ∀ low ∈ ([0x30, 0x80, 0x49, 0x3B, 0xBB] : List (BitVec 8)), decode (0x4#4 ++ n ++ low) = .error .unlisted

/-! A step. -/

/-- DERIVED (41_branch.md section 1, 20_memory.md section 2, D1, D18; log 46 for a fetch from a device). When a step
fetches and the word there decodes to `i`, the step is `exec i` at the state with the boundary's input used up and the
word read, which only a device sees; `exec` itself ends the instruction. -/
def Obligations.StepRunsDecodedInstruction : Prop :=
  ∀ (s : State) (w : Word) (i : Instr), Fetches s w → decode w = .ok i → step s = exec i (fetched s)

/-- DERIVED (log 37, log 43; not of the spec). A table word placed with `withFetchWord` is the instruction that the
very next step runs, from every state. -/
def Obligations.PlacedWordIsTheNextInstruction : Prop :=
  ∀ (s : State) (nbits w : Nat) (i : Instr), decode (BitVec.ofNat 16 (w % 2 ^ nbits)) = .ok i →
    step (s.withFetchWord nbits w) = exec i (afterBoundary (s.withFetchWord nbits w))

/-- DERIVED (20_memory.md section 3, 30_encoding.md section 4, 60_exceptions.md sections 2 and 3, D6, D7, D14; log 8,
log 39, log 40). With SR.BL = 0, a fetched word that holds no instruction raises the illegal-instruction exception of its
place, and a step that reaches an odd pc raises `AddressErrorRead` of that pc, with that pc saved. Three things here are
the model's choice: that the exceptions are taken (log 8), that the odd pc is saved even if a delayed branch is pending,
where no run comes (log 39), and that the odd pc is reported whatever `MEM_MAP` holds there (log 40). -/
def Obligations.FetchRaisesIllegalOrAddressError : Prop :=
  (∀ (s : State) (w : Word) (e : DecodeError), Fetches s w → decode w = .error e → s.sr.getLsbD 28 = false →
    ∃ t, step s = .next t ∧ Entered (fetched s) (illegalCause s w) (savedPc s) s.cfg.vecGeneral t) ∧
  ∀ s : State, (∀ l, s.irqs.head? = some (some l) → ¬Accepts s l) → s.sleeping = false → s.pc.getLsbD 0 = true →
    s.sr.getLsbD 28 = false →
    ∃ t, step s = .next t ∧ Entered (afterBoundary s) (.addressErrorRead s.pc) s.pc s.cfg.vecGeneral t

/-- DERIVED (60_exceptions.md sections 3 and 5, D13, D18). A request above SR.IM, with SR.BL = 0 and no delayed branch
pending, is accepted at the boundary, asleep or awake: the trap sequence runs through `VEC_INTERRUPT` with pc saved. -/
def Obligations.InterruptIsAccepted : Prop :=
  ∀ (s : State) (l : BitVec 4), s.irqs.head? = some (some l) → Accepts s l →
    ∃ t, step s = .next t ∧ Entered (afterBoundary s) (.interrupt l) s.pc s.cfg.vecInterrupt t

/-- DERIVED (60_exceptions.md section 5, D18). A request that is held off (SR.BL = 1, or SR.IM at or above the level,
or between a delayed branch and its slot) has no effect at all: the step is that of a quiet boundary, and the core
keeps no pending request. -/
def Obligations.HeldOffInterruptHasNoEffect : Prop :=
  ∀ (s : State) (l : BitVec 4) (rest : List (Option (BitVec 4))), s.irqs = some l :: rest → ¬Accepts s l →
    step s = step { s with irqs := none :: rest }

/-- DERIVED (00_scope.md section 6, 48_system_trap.md, 60_exceptions.md section 5, D27; log 17, log 18, log 47). A sleeping
core with nothing to accept at this boundary changes nothing but the environment's input while a request still to come
would be accepted. Where none would (SR.BL = 1, or SR.IM = 15, or no request left), it is stuck: there is no next state,
and that is an end of the run whatever address the run was to reach. That the requests to come are a list of State, that
a run ends there, and what a run answers, are the model's choices (log 17, log 47). -/
def Obligations.SleepingCoreIdlesOrIsStuck : Prop :=
  ∀ s : State, s.sleeping = true → (∀ l, s.irqs.head? = some (some l) → ¬Accepts s l) →
    (WillWake s → step s = .next (afterBoundary s)) ∧
    (¬WillWake s → step s = .fault .endlessSleep ∧ ∀ stop n, runTo stop n s = .ended s) ∧
    (s.sr.getLsbD 28 = true ∨ s.sr.toNat / 16 % 16 = 15 ∨ s.irqs = [] → step s = .fault .endlessSleep)

/-! Reset and invariants. -/

/-- DERIVED (10_state.md section 9, 70_reset_and_hazards.md section 1, D20; log 3 for `State.reset`). After reset pc, SR
and VBR are the three reset parameters, no delayed branch is pending, the core is awake, no cause is recorded, no unit
is stale, no byte of memory has been written, and no device has been reached (the log is the model's own: log 46). The suggested
values of R5, the family's, give `State.reset`. -/
def Obligations.ResetLeavesTheStatedValues : Prop :=
  (∀ c : Config,
    (State.resetWith c).pc = c.resetPc ∧ (State.resetWith c).sr = c.resetSr ∧ (State.resetWith c).vbr = c.resetVbr ∧
    (State.resetWith c).delayTarget = none ∧ (State.resetWith c).sleeping = false ∧
    (State.resetWith c).lastCause = none ∧ (State.resetWith c).icacheStale = [] ∧ (State.resetWith c).mem = [] ∧
    (State.resetWith c).deviceLog = []) ∧
  State.reset.pc = 0xA0000000 ∧ State.reset.sr = 0x700000F0 ∧ State.reset.vbr = 0

/-- DERIVED (10_state.md section 5, 70_reset_and_hazards.md section 1). The invariant holds after reset under every
well-formed parameter set, the suggested one among them. -/
def Obligations.InvariantHoldsAtReset : Prop :=
  (∀ c : Config, c.wf = true → (State.resetWith c).Inv) ∧ State.reset.Inv

/-- DERIVED (10_state.md sections 5 and 8, 20_memory.md sections 1 and 6). Every step keeps the invariant: memory and
the stale set stay canonical, the bits of SR without a name stay 0, an instruction in a delay slot stands at an even
address, and the core never sleeps in a delay slot. -/
def Obligations.StepKeepsInvariant : Prop :=
  ∀ s t : State, s.Inv → step s = .next t → t.Inv

/-- DERIVED (00_scope.md section 3; log 1, log 17). No step changes a parameter, and each step uses up one boundary's
input. -/
def Obligations.ParametersNeverChange : Prop :=
  ∀ s t : State, step s = .next t → t.cfg = s.cfg ∧ t.irqs = s.irqs.tail

/-- DERIVED (20_memory.md sections 3, 4 and 6, 60_exceptions.md section 4, D21, D33, D40, D42; log 46 for the log and the
input). Accesses reach devices in program order, once each, neither merged, repeated nor elided. A step that accepts an
interrupt, sleeps or stands at an odd pc makes none. Every other step makes the read of its fetch, if a device answers at
pc, and after it the accesses of the instruction that the word read decodes to, if a device answers at its address: those
and no others, with their sizes, addresses and values, and none where a check of the instruction fails or its address is
misaligned. So the accesses made before stay as they are, a step adds at most three, each at an address of a device, and
it takes one value of the platform's input for each read among them. -/
def Obligations.DeviceAccessesAreExactlyTheProgramsOwn : Prop :=
  ∀ s t : State, step s = .next t →
    ((∃ l, s.irqs.head? = some (some l) ∧ Accepts s l) ∨ s.sleeping = true ∨ s.pc.getLsbD 0 = true → SameDevices s t) ∧
    ((∀ l, s.irqs.head? = some (some l) → ¬Accepts s l) → s.sleeping = false → s.pc.getLsbD 0 = false →
      (∀ i, decode (wordAt s) = .ok i → SameDevices (accessed (fetched s) i) t) ∧
      ∀ e, decode (wordAt s) = .error e → SameDevices (fetched s) t) ∧
    s.devicesFollow t ∧ t.deviceLog.length ≤ s.deviceLog.length + 3

/-- DERIVED (60_exceptions.md sections 5 and 7, D12). A step that begins and ends in user mode changes no privileged
state: VBR, SSR, SPC, SGR and DBR keep their values, every SR bit but T, S, Q and M keeps its value, the core stays
awake or asleep as it was, and while Bank A is mapped every register of Bank B keeps its value. -/
def Obligations.UserModeChangesNoPrivilegedState : Prop :=
  ∀ s t : State, s.cfg.privCheck = true → s.sr.getLsbD 30 = false → step s = .next t → t.sr.getLsbD 30 = false →
    t.vbr = s.vbr ∧ t.ssr = s.ssr ∧ t.spc = s.spc ∧ t.sgr = s.sgr ∧ t.dbr = s.dbr ∧ t.sleeping = s.sleeping ∧
    t.lastCause = s.lastCause ∧
    (∀ i, i ≠ 0 → i ≠ 1 → i ≠ 8 → i ≠ 9 → t.sr.getLsbD i = s.sr.getLsbD i) ∧
    (s.bankBMapped = false → ∀ k, t.readPhys (.bankB k) = s.readPhys (.bankB k))

/-- DERIVED (60_exceptions.md sections 3, 5 and 7, D12, D13, D14, D15; log 8, log 39). With the privilege check on, the
one way from user mode into supervisor mode is to take an exception or an interrupt: the step performed the whole trap
sequence of some kind, through the vector of that kind, with the address saved that R433 gives the kind: an interrupt
only if it was requested and accepted, a trap instruction only outside a delay slot, and the two illegal-instruction kinds
each in its place. -/
def Obligations.SupervisorModeIsEnteredOnlyByTrap : Prop :=
  ∀ s t : State, s.cfg.privCheck = true → s.sr.getLsbD 30 = false → step s = .next t → t.sr.getLsbD 30 = true →
    ∃ c : Cause, Entered (foundBy s c) c (savedFor s c) (offsetFor s c) t ∧
      match c with
      | .interrupt l => s.irqs.head? = some (some l) ∧ Accepts s l
      | .trapa _ | .breakpoint | .illegalInstruction _ => s.delayTarget = none
      | .slotIllegalInstruction _ => s.delayTarget.isSome = true
      | .addressErrorRead _ | .addressErrorWrite _ => True

/-- DERIVED (41_branch.md section 1, 60_exceptions.md section 3, D3, D14; log 8). The instruction in a delay slot,
whatever it is, is followed by the target of the delayed branch, unless it raises an exception: then the address of the branch is
saved and the pending branch discarded. -/
def Obligations.DelaySlotCompletesTheBranch : Prop :=
  ∀ (s t : State) (target : DWord), s.delayTarget = some target → s.sleeping = false → s.pc.getLsbD 0 = false →
    step s = .next t →
    (t.pc = target ∧ t.delayTarget = none) ∨
      ∃ c, Entered (fetched s) c (s.pc - 2) s.cfg.vecGeneral t

/-- DERIVED (48_system_trap.md, 60_exceptions.md sections 2 and 3, D17, D27; log 8, log 18, log 39, log 40). The machine
stops with a fault in two cases only: a synchronous exception while SR.BL = 1, and a sleep that no request to come can
end. That it stops in no other rests on the model's choice to take all seven kinds (log 8). While SR.BL = 1 it does stop,
with the kind named: for `TRAPA` and `BRK` outside a delay slot, for what is forbidden in one, for a failed privilege or
index check, for the five unimplemented rows, for a misaligned access, for a fetched word without an instruction, and at
an odd pc. -/
def Obligations.StopsOnlyWhileBlockedOrAsleepForGood : Prop :=
  (∀ (s : State) (r : Fault), step s = .fault r →
    (s.sr.getLsbD 28 = true ∧ ∃ c, r = .exceptionWhileBlocked c) ∨
    (s.sleeping = true ∧ ¬WillWake s ∧ r = .endlessSleep)) ∧
  ∀ s : State, s.sr.getLsbD 28 = true →
    (s.delayTarget = none →
      (∀ j, exec (.trapa j) s = .fault (.exceptionWhileBlocked (.trapa j))) ∧
      exec .brk s = .fault (.exceptionWhileBlocked .breakpoint)) ∧
    (∀ i, slotForbidden i = true ∧ s.delayTarget.isSome = true ∨
        privileged i = true ∧ s.cfg.privCheck = true ∧ s.sr.getLsbD 30 = false ∨ reservedIndex s i = true ∨
        unimplemented i = true →
      exec i s = .fault (.exceptionWhileBlocked (illegalCause s (encode i)))) ∧
    (∀ i write n a, access s i = some (write, n, a) → legalHere s i = true → a.toNat % n ≠ 0 →
      exec i s = .fault (.exceptionWhileBlocked (if write then .addressErrorWrite a else .addressErrorRead a))) ∧
    (∀ w e, Fetches s w → decode w = .error e → step s = .fault (.exceptionWhileBlocked (illegalCause s w))) ∧
    (s.sleeping = false → s.pc.getLsbD 0 = true → step s = .fault (.exceptionWhileBlocked (.addressErrorRead s.pc)))

/-- DERIVED (20_memory.md sections 4 and 6, D22, D33; log 7, log 16, log 40). A step is refused for three reasons only: a
stale fetch, a byte that no region of `MEM_MAP` holds, an access that memory and a device share. A fetch from a stale unit
is refused whatever answers there. -/
def Obligations.RefusalsHaveThreeReasons : Prop :=
  (∀ (s : State) (r : Refusal), step s = .refused r →
    (r = .staleFetch s.pc ∧ s.pc.toNat ∈ s.icacheStale) ∨
    (∃ a : DWord, r = .unmappedAccess a ∧ s.cfg.kindAt a.toNat = none) ∨
    ∃ (a : DWord) (k : Nat), r = .straddlingAccess a ∧ k < 4 ∧
      s.cfg.kindAt (a.toNat + k) ≠ s.cfg.kindAt a.toNat) ∧
  ∀ s : State, (∀ l, s.irqs.head? = some (some l) → ¬Accepts s l) → s.sleeping = false → Answered s 2 s.pc →
    s.pc.toNat ∈ s.icacheStale → step s = .refused (.staleFetch s.pc)

/-! Exceptions. -/

/-- DERIVED (48_system_trap.md, 60_exceptions.md section 3, D13, D14, D28, D38; log 8 for `BRK`). `TRAPA` and `BRK`
outside a delay slot with SR.BL = 0 take their exception, in either mode: the address after them is saved, and nothing
but the list of R430 changes. -/
def Obligations.TrapaAndBrkEnterTheHandler : Prop :=
  ∀ s : State, s.delayTarget = none → s.sr.getLsbD 28 = false →
    (∀ j, Runs (.trapa j) s (Entered s (.trapa j) (s.pc + 2) s.cfg.vecGeneral)) ∧
    Runs .brk s (Entered s .breakpoint (s.pc + 2) s.cfg.vecGeneral)

/-- DERIVED (48_system_trap.md, 60_exceptions.md section 6, D12, D19, D27). In supervisor mode outside a delay slot `RTE`
restores SR from SSR under `SR_WRITE_MASK` and branches, with a delay slot, to SPC, R15 and every other register kept;
`SLEEP` puts the core to sleep with pc past it, and nothing else changes. -/
def Obligations.RteReturnsAndSleepSleeps : Prop :=
  ∀ s : State, s.delayTarget = none → priv s = true →
    Runs .rte s (fun t => t.sr = s.ssr &&& s.cfg.srWriteMask ∧ t.pc = s.pc + 2 ∧ t.delayTarget = some s.spc ∧
      Frame s t [] 0xFFFFFFFF [] [] []) ∧
    Runs .sleep s (fun t => t.sleeping = true ∧ t.pc = s.pc + 2 ∧ t.delayTarget = none ∧
      Frame { s with sleeping := true } t [] 0 [] [] [])

/-- DERIVED (60_exceptions.md sections 3 and 6, D19). A return undoes the trap: `RTE` at the state a `TRAPA` entered
restores SR whole and branches to the instruction after the `TRAPA`, with both banks, R8..R15 and memory as they
were. -/
def Obligations.ReturnUndoesTrapEntry : Prop :=
  ∀ (s t : State) (j : BitVec 8), s.delayTarget = none → s.sr &&& s.cfg.srWriteMask = s.sr →
    exec (.trapa j) s = .next t →
    ∃ u, exec .rte t = .next u ∧ u.sr = s.sr ∧ u.delayTarget = some (s.pc + 2) ∧ u.pc = s.vbr + s.cfg.vecGeneral + 2 ∧
      (∀ p, u.readPhys p = s.readPhys p) ∧ (∀ r, u.reg r = s.reg r) ∧ ∀ a, u.byteAt a = s.byteAt a

/-- DERIVED (41_branch.md section 1, 43_data_transfer.md section 1, D3; log 8). An instruction that may not stand in a
delay slot raises `SlotIllegalInstruction` there, with the address of the branch saved, whatever its operands and the mode. -/
def Obligations.ForbiddenInSlotRaisesSlotIllegal : Prop :=
  ∀ (i : Instr) (s : State), slotForbidden i = true → s.delayTarget.isSome = true → s.sr.getLsbD 28 = false →
    Runs i s (Entered s (.slotIllegalInstruction (encode i)) (s.pc - 2) s.cfg.vecGeneral)

/-- DERIVED (40_system_registers.md section 1, 60_exceptions.md sections 2 and 7, D8, D12, D26, D36; log 8). A
privileged instruction in user mode, and in either mode an index that names no register, raise the illegal-instruction exception
of their place before any access or write of their own. -/
def Obligations.PrivilegeAndIndexChecksRaiseIllegal : Prop :=
  (∀ (i : Instr) (s : State), privileged i = true → s.cfg.privCheck = true → s.sr.getLsbD 30 = false →
    s.sr.getLsbD 28 = false → RaisesIllegal i s) ∧
  ∀ (i : Instr) (s : State), reservedIndex s i = true → s.sr.getLsbD 28 = false → RaisesIllegal i s

/-- DERIVED (30_encoding.md section 4, D7; log 8). The five rows named without being implemented raise the
illegal-instruction exception of their place: that is all they do. -/
def Obligations.UnimplementedRowsRaiseIllegal : Prop :=
  ∀ s : State, s.sr.getLsbD 28 = false →
    RaisesIllegal .ldtlb s ∧ (∀ m, RaisesIllegal (.movual m) s) ∧ (∀ m, RaisesIllegal (.movualDec m) s) ∧
    (∀ m, RaisesIllegal (.jsrN m) s) ∧ ∀ m, RaisesIllegal (.rtvN m) s

/-- DERIVED (20_memory.md section 3, 60_exceptions.md sections 2 to 4, D5, D14, D41; log 8, log 40). An access at a
misaligned address raises the address error of its kind, whatever `MEM_MAP` holds there (the model's choice: log 40);
no register, flag or byte has changed, and no decrement or increment has happened. -/
def Obligations.MisalignedAccessRaisesAddressError : Prop :=
  ∀ (i : Instr) (s : State) (write : Bool) (n : Nat) (a : DWord), access s i = some (write, n, a) →
    legalHere s i = true → a.toNat % n ≠ 0 → s.sr.getLsbD 28 = false →
    Runs i s (Entered s (if write then .addressErrorWrite a else .addressErrorRead a) (savedPc s) s.cfg.vecGeneral)

/-- DERIVED (20_memory.md section 4, D33; log 7, log 40). An aligned access outside what `MEM_MAP` declares is refused, by
its first byte that no region holds; and an access whose bytes all lie in regions, some of them memory and some a
device's, is refused as shared. -/
def Obligations.AccessOutsideMemoryIsRefused : Prop :=
  ∀ (i : Instr) (s : State) (write : Bool) (n : Nat) (a : DWord) (k : Nat), access s i = some (write, n, a) →
    legalHere s i = true → a.toNat % n = 0 → k < n →
    ((∀ j, j < k → s.cfg.kindAt (a.toNat + j) ≠ none) → s.cfg.kindAt (a.toNat + k) = none →
      exec i s = .refused (.unmappedAccess (a + BitVec.ofNat 32 k))) ∧
    ((∀ j, j < n → s.cfg.kindAt (a.toNat + j) ≠ none) → s.cfg.kindAt (a.toNat + k) ≠ s.cfg.kindAt a.toNat →
      exec i s = .refused (.straddlingAccess a))

/-! System and control registers, flags (40_system_registers.md). -/

/-- STATED (R173, R174, R175, R176, R177). `CLRT`, `SETT`, `CLRMAC`, `CLRS`, `SETS`: their words, the one flag or the two
registers they write, and that nothing else changes. -/
def Obligations.ClearAndSetInstructions : Prop :=
  decode 0x0008 = .ok .clrt ∧ decode 0x0018 = .ok .sett ∧ decode 0x0028 = .ok .clrmac ∧ decode 0x0048 = .ok .clrs ∧
  decode 0x0058 = .ok .sets ∧
  ∀ s : State,
    Runs .clrt s (SetsT s false) ∧
    Runs .sett s (SetsT s true) ∧
    Runs .clrmac s (fun t => t.mach = 0 ∧ t.macl = 0 ∧ Frame s t [] 0 [.mach, .macl] [] [] ∧ InSequence s t) ∧
    Runs .clrs s (fun t => t.sr.getLsbD 1 = false ∧ Frame s t [] 2 [] [] [] ∧ InSequence s t) ∧
    Runs .sets s (fun t => t.sr.getLsbD 1 = true ∧ Frame s t [] 2 [] [] [] ∧ InSequence s t)

/-- DERIVED (40_system_registers.md sections 4 and 5, D2, D29). `NOTT` complements T; `MOVT` and `MOVRT` write T and its
complement to the whole register; `NOP` changes nothing, whatever its `i`. -/
def Obligations.NopAndMovesOfT : Prop :=
  ∀ s : State,
    Runs .nott s (SetsT s (!srT s)) ∧ (∀ i, Runs (.nop i) s (Skips s)) ∧
    (∀ n, Runs (.movt n) s (SetsReg s n (if srT s then 1 else 0))) ∧
    ∀ n, Runs (.movrt n) s (SetsReg s n (if srT s then 0 else 1))

/-- DERIVED (10_state.md section 6, 40_system_registers.md sections 1 and 2, D10, D12, D26, D36; log 10). `STC` and `STS`
copy the register their index names, wherever the tables give it a value. Which bank CR8 to CR15 name when
`CR_BANK_VIEW` is not its default is the model's choice (log 10). -/
def Obligations.StcAndStsCopyToRegister : Prop :=
  ∀ (s : State) (m : BitVec 4) (n : Reg),
    (∀ v, crRead s m = some v → Runs (.stc m n) s (SetsReg s n v)) ∧
    ∀ x, sysOf s m = some x → Runs (.sts m n) s (SetsReg s n (special s x))

/-- DERIVED (10_state.md section 6, 20_memory.md section 6, 40_system_registers.md sections 1 and 2, D2, D10, D12, D22,
D36; log 10, log 46). `STC.L` and `STS.L` store the register their index names, as it was before the decrement, at
`x[n] - 4`, and `x[n]` becomes that address. Which bank CR8 to CR15 name when `CR_BANK_VIEW` is not its default is the
model's choice (log 10). -/
def Obligations.StcLongAndStsLongPush : Prop :=
  ∀ (s : State) (m : BitVec 4) (n : Reg), Answered s 4 (s.reg n - 4) →
    (∀ v, crRead s m = some v → Runs (.stcl m n) s (StoresDec s 4 n (s.reg n - 4) v)) ∧
    ∀ x, sysOf s m = some x → Runs (.stsl m n) s (StoresDec s 4 n (s.reg n - 4) (special s x))

/-- DERIVED (10_state.md section 6, 40_system_registers.md sections 1 and 3, D10, D11, D12, D37; log 10). `LDC` and `LDS`
write `x[m]` to the register their index names, SR under `SR_WRITE_MASK`; nothing else changes. Which bank CR8 to CR15
name when `CR_BANK_VIEW` is not its default is the model's choice (log 10). -/
def Obligations.LdcAndLdsCopyFromRegister : Prop :=
  ∀ (s : State) (m : Reg) (o : BitVec 4),
    (∀ d, crDest s o = some d →
      Runs (.ldc m o) s fun t => d.holds s (s.reg m) t ∧ Frame s t d.regs d.srBits d.specials [] [] ∧ InSequence s t) ∧
    ∀ x, sysOf s o = some x →
      Runs (.lds m o) s fun t => special t x = s.reg m ∧ Frame s t [] 0 [x] [] [] ∧ InSequence s t

/-- DERIVED (10_state.md section 6, 20_memory.md section 4, 40_system_registers.md sections 1 and 3, D2, D10, D11, D12,
D36, D37; log 10, log 22, log 46). `LDC.L` and `LDS.L` load the register their index names from `@Rm` and step Rm past
it; the register mapped before SR changes is the one stepped, and where it is itself the destination the loaded value
wins. Which bank CR8 to CR15 name when `CR_BANK_VIEW` is not its default is the model's choice (log 10). -/
def Obligations.LdcLongAndLdsLongPop : Prop :=
  ∀ (s : State) (m : Reg) (o : BitVec 4), Answered s 4 (s.reg m) →
    (∀ d, crDest s o = some d →
      Runs (.ldcl m o) s fun t => d.holds s (loaded s 4 (s.reg m)) t ∧
        (d ≠ .reg (s.physOf m) → t.readPhys (s.physOf m) = s.reg m + 4) ∧
        Frame (afterRead s 4 (s.reg m)) t (s.physOf m :: d.regs) d.srBits d.specials [] [] ∧ InSequence s t) ∧
    ∀ x, sysOf s o = some x →
      Runs (.ldsl m o) s fun t => special t x = loaded s 4 (s.reg m) ∧ t.readPhys (s.physOf m) = s.reg m + 4 ∧
        Frame (afterRead s 4 (s.reg m)) t [s.physOf m] 0 [x] [] [] ∧ InSequence s t

/-! Branches (41_branch.md). -/

/-- DERIVED (41_branch.md, D2, D3, D25). The delayed branches: the target computed when the branch executes, the slot
next, and `pc + 4` in PR for the three calls. -/
def Obligations.DelayedBranchesAndCalls : Prop :=
  ∀ s : State, s.delayTarget = none →
    (∀ m, Runs (.bsrf m) s (Delayed s (s.pc + 4 + s.reg m) (some (s.pc + 4)))) ∧
    (∀ m, Runs (.braf m) s (Delayed s (s.pc + 4 + s.reg m) none)) ∧
    Runs .rts s (Delayed s s.pr none) ∧
    (∀ m, Runs (.jsr m) s (Delayed s (s.reg m) (some (s.pc + 4)))) ∧
    (∀ m, Runs (.jmp m) s (Delayed s (s.reg m) none)) ∧
    (∀ d, Runs (.bra d) s (Delayed s (s.pc + 4 + disp12Signed d) none)) ∧
    ∀ d, Runs (.bsr d) s (Delayed s (s.pc + 4 + disp12Signed d) (some (s.pc + 4)))

/-- DERIVED (41_branch.md, D2, D3, D25). The branches without a slot, `RTS/N`, `BRA/N` under either reading of its
displacement, `BT` and `BF`, taken or not; and `BTS` and `BFS`, delayed when taken, ordinary when not. -/
def Obligations.ShortAndConditionalBranches : Prop :=
  ∀ s : State, s.delayTarget = none →
    Runs .rtsN s (Jumps s s.pr) ∧
    ∀ d : BitVec 8,
      (s.cfg.branDisp8 = .zeroExtended →
        Runs (.braN d) s (Jumps s (s.pc + 4 + BitVec.ofNat 32 (2 * d.toNat)))) ∧
      (s.cfg.branDisp8 = .signExtended → Runs (.braN d) s (Jumps s (s.pc + 4 + disp8Signed d))) ∧
      Runs (.bt d) s (Jumps s (if srT s then s.pc + 4 + disp8Signed d else s.pc + 2)) ∧
      Runs (.bf d) s (Jumps s (if srT s then s.pc + 2 else s.pc + 4 + disp8Signed d)) ∧
      (srT s = true → Runs (.bts d) s (Delayed s (s.pc + 4 + disp8Signed d) none) ∧ Runs (.bfs d) s (Skips s)) ∧
      (srT s = false → Runs (.bfs d) s (Delayed s (s.pc + 4 + disp8Signed d) none) ∧ Runs (.bts d) s (Skips s))

/-! Cache and compare-and-exchange (42_cache_atomic.md). -/

/-- DERIVED (42_cache_atomic.md, D22, D23). `PREF` changes nothing and `ICBI` makes fresh exactly the units of the
aligned `ICACHE_LINE`-byte block of its address; neither raises, whatever the register holds. -/
def Obligations.PrefetchAndInvalidate : Prop :=
  ∀ (s : State) (n : Reg),
    Runs (.pref n) s (Skips s) ∧
    ∀ k, s.cfg.icacheLine = 2 ^ k →
      Runs (.icbi n) s fun t =>
        (∀ u, u ∈ t.icacheStale ↔ u ∈ s.icacheStale ∧ u / 2 ^ k ≠ (s.reg n).toNat / 2 ^ k) ∧
        Frame s t [] 0 [] [] s.icacheStale ∧ InSequence s t

/-- DERIVED (42_cache_atomic.md, 20_memory.md section 4, D22, D24, D42; log 46). `CAS.L`: the old long goes to Rn; memory,
or the device there, takes the old Rn and T becomes 1 when the old long equals Rm; otherwise T becomes 0 and nothing is
stored. -/
def Obligations.CompareAndExchange : Prop :=
  ∀ (s : State) (m n : Reg), Answered s 4 (s.reg 0) →
    (loaded s 4 (s.reg 0) = s.reg m →
      Runs (.casl m n) s fun t => Stored s t 4 (s.reg 0) (s.reg n) ∧ t.readPhys (s.physOf n) = loaded s 4 (s.reg 0) ∧
        t.sr.getLsbD 0 = true ∧
        Frame (afterWrite (afterRead s 4 (s.reg 0)) 4 (s.reg 0) (s.reg n)) t [s.physOf n] 1 []
          (bytesStored s 4 (s.reg 0)) (unitsTouched 4 (s.reg 0)) ∧ InSequence s t) ∧
    (loaded s 4 (s.reg 0) ≠ s.reg m →
      Runs (.casl m n) s (SetsRegT (afterRead s 4 (s.reg 0)) n (loaded s 4 (s.reg 0)) false))

/-! Data transfer (43_data_transfer.md). -/

/-- DERIVED (20_memory.md sections 2 to 6, 43_data_transfer.md, D1, D2, D31, D33; log 46 for devices). The loads through
`@(R0,Rm)`, `@Rm`, `@(Rm,disp)` and `@(GBR,disp)`: the value that memory or a device has at the address, sign-extended,
goes to the destination. -/
def Obligations.LoadsWithoutUpdate : Prop :=
  ∀ s : State,
    (∀ m n, Answered s 1 (s.reg 0 + s.reg m) → Runs (.movbLoadR0 m n) s (Loads s 1 (s.reg 0 + s.reg m) n)) ∧
    (∀ m n, Answered s 2 (s.reg 0 + s.reg m) → Runs (.movwLoadR0 m n) s (Loads s 2 (s.reg 0 + s.reg m) n)) ∧
    (∀ m n, Answered s 4 (s.reg 0 + s.reg m) → Runs (.movlLoadR0 m n) s (Loads s 4 (s.reg 0 + s.reg m) n)) ∧
    (∀ m n, Answered s 1 (s.reg m) → Runs (.movbLoad m n) s (Loads s 1 (s.reg m) n)) ∧
    (∀ m n, Answered s 2 (s.reg m) → Runs (.movwLoad m n) s (Loads s 2 (s.reg m) n)) ∧
    (∀ m n, Answered s 4 (s.reg m) → Runs (.movlLoad m n) s (Loads s 4 (s.reg m) n)) ∧
    (∀ m d, Answered s 1 (s.reg m + BitVec.ofNat 32 d.toNat) →
      Runs (.movbLoadDisp m d) s (Loads s 1 (s.reg m + BitVec.ofNat 32 d.toNat) 0)) ∧
    (∀ m d, Answered s 2 (s.reg m + BitVec.ofNat 32 (2 * d.toNat)) →
      Runs (.movwLoadDisp m d) s (Loads s 2 (s.reg m + BitVec.ofNat 32 (2 * d.toNat)) 0)) ∧
    (∀ m d n, Answered s 4 (s.reg m + BitVec.ofNat 32 (4 * d.toNat)) →
      Runs (.movlLoadDisp m d n) s (Loads s 4 (s.reg m + BitVec.ofNat 32 (4 * d.toNat)) n)) ∧
    (∀ d, Answered s 1 (s.gbr + BitVec.ofNat 32 d.toNat) →
      Runs (.movbLoadGbr d) s (Loads s 1 (s.gbr + BitVec.ofNat 32 d.toNat) 0)) ∧
    (∀ d, Answered s 2 (s.gbr + BitVec.ofNat 32 (2 * d.toNat)) →
      Runs (.movwLoadGbr d) s (Loads s 2 (s.gbr + BitVec.ofNat 32 (2 * d.toNat)) 0)) ∧
    ∀ d, Answered s 4 (s.gbr + BitVec.ofNat 32 (4 * d.toNat)) →
      Runs (.movlLoadGbr d) s (Loads s 4 (s.gbr + BitVec.ofNat 32 (4 * d.toNat)) 0)

/-- DERIVED (20_memory.md section 4, 43_data_transfer.md, D2, D3, D4, D32, D33; log 46 for devices). The PC-relative
loads, `MOVA` and `LEA.B`, outside a delay slot: PC is `pc + 4`, with its low two bits cleared for the long form and
`MOVA`. -/
def Obligations.PcRelativeLoadsAndAddresses : Prop :=
  ∀ s : State, s.delayTarget = none →
    (∀ n, Answered s 1 (s.pc + 4 + s.reg 0) → Runs (.movbLoadPc n) s (Loads s 1 (s.pc + 4 + s.reg 0) n)) ∧
    (∀ n, Answered s 2 (s.pc + 4 + s.reg 0) → Runs (.movwLoadPc n) s (Loads s 2 (s.pc + 4 + s.reg 0) n)) ∧
    (∀ n, Answered s 4 (s.pc + 4 + s.reg 0) → Runs (.movlLoadPc n) s (Loads s 4 (s.pc + 4 + s.reg 0) n)) ∧
    (∀ n, Runs (.leab n) s (SetsReg s n (s.pc + 4 + s.reg 0))) ∧
    (∀ d n, Answered s 2 (s.pc + 4 + BitVec.ofNat 32 (2 * d.toNat)) →
      Runs (.movwLoadPcDisp d n) s (Loads s 2 (s.pc + 4 + BitVec.ofNat 32 (2 * d.toNat)) n)) ∧
    (∀ d n, Answered s 4 (BitVec.ofNat 32 ((s.pc + 4).toNat / 4 * 4 + 4 * d.toNat)) →
      Runs (.movlLoadPcDisp d n) s (Loads s 4 (BitVec.ofNat 32 ((s.pc + 4).toNat / 4 * 4 + 4 * d.toNat)) n)) ∧
    ∀ d, Runs (.mova d) s (SetsReg s 0 (BitVec.ofNat 32 ((s.pc + 4).toNat / 4 * 4 + 4 * d.toNat)))

/-- DERIVED (20_memory.md sections 4 and 6, 43_data_transfer.md sections 5 and 8, D2, D22, D33, D34; log 46 for devices).
Through `@Rm+` Rm steps past the access, and the loaded
value, written last, wins when the two registers are one. Through `@-Rn` the value stored is the register's before the
decrement, also when the two registers are one. -/
def Obligations.AutoModifyLoadsAndStores : Prop :=
  ∀ (s : State) (m n : Reg),
    (Answered s 1 (s.reg m) → Runs (.movbLoadInc m n) s (LoadsInc s 1 m n)) ∧
    (Answered s 2 (s.reg m) → Runs (.movwLoadInc m n) s (LoadsInc s 2 m n)) ∧
    (Answered s 4 (s.reg m) → Runs (.movlLoadInc m n) s (LoadsInc s 4 m n)) ∧
    (Answered s 1 (s.reg n - 1) → Runs (.movbStoreDec m n) s (StoresDec s 1 n (s.reg n - 1) (s.reg m))) ∧
    (Answered s 2 (s.reg n - 2) → Runs (.movwStoreDec m n) s (StoresDec s 2 n (s.reg n - 2) (s.reg m))) ∧
    (Answered s 4 (s.reg n - 4) → Runs (.movlStoreDec m n) s (StoresDec s 4 n (s.reg n - 4) (s.reg m)))

/-- DERIVED (20_memory.md sections 2 to 6, 42_cache_atomic.md, 43_data_transfer.md, D1, D2, D22, D23, D31, D33; log 46 for
devices). The stores through `@(R0,Rn)`, `@Rn`, `@(Rn,disp)` and `@(GBR,disp)`, and `MOVCA.L`: the low bytes of the
register go to memory or to the device at the address, their units become stale, and nothing else changes. -/
def Obligations.StoresWithoutUpdate : Prop :=
  ∀ s : State,
    (∀ m n, Answered s 1 (s.reg 0 + s.reg n) → Runs (.movbStoreR0 m n) s (Stores s 1 (s.reg 0 + s.reg n) (s.reg m))) ∧
    (∀ m n, Answered s 2 (s.reg 0 + s.reg n) → Runs (.movwStoreR0 m n) s (Stores s 2 (s.reg 0 + s.reg n) (s.reg m))) ∧
    (∀ m n, Answered s 4 (s.reg 0 + s.reg n) → Runs (.movlStoreR0 m n) s (Stores s 4 (s.reg 0 + s.reg n) (s.reg m))) ∧
    (∀ m n, Answered s 1 (s.reg n) → Runs (.movbStore m n) s (Stores s 1 (s.reg n) (s.reg m))) ∧
    (∀ m n, Answered s 2 (s.reg n) → Runs (.movwStore m n) s (Stores s 2 (s.reg n) (s.reg m))) ∧
    (∀ m n, Answered s 4 (s.reg n) → Runs (.movlStore m n) s (Stores s 4 (s.reg n) (s.reg m))) ∧
    (∀ n, Answered s 4 (s.reg n) → Runs (.movcal n) s (Stores s 4 (s.reg n) (s.reg 0))) ∧
    (∀ n d, Answered s 1 (s.reg n + BitVec.ofNat 32 d.toNat) →
      Runs (.movbStoreDisp n d) s (Stores s 1 (s.reg n + BitVec.ofNat 32 d.toNat) (s.reg 0))) ∧
    (∀ n d, Answered s 2 (s.reg n + BitVec.ofNat 32 (2 * d.toNat)) →
      Runs (.movwStoreDisp n d) s (Stores s 2 (s.reg n + BitVec.ofNat 32 (2 * d.toNat)) (s.reg 0))) ∧
    (∀ m n d, Answered s 4 (s.reg n + BitVec.ofNat 32 (4 * d.toNat)) →
      Runs (.movlStoreDisp m n d) s (Stores s 4 (s.reg n + BitVec.ofNat 32 (4 * d.toNat)) (s.reg m))) ∧
    (∀ d, Answered s 1 (s.gbr + BitVec.ofNat 32 d.toNat) →
      Runs (.movbStoreGbr d) s (Stores s 1 (s.gbr + BitVec.ofNat 32 d.toNat) (s.reg 0))) ∧
    (∀ d, Answered s 2 (s.gbr + BitVec.ofNat 32 (2 * d.toNat)) →
      Runs (.movwStoreGbr d) s (Stores s 2 (s.gbr + BitVec.ofNat 32 (2 * d.toNat)) (s.reg 0))) ∧
    ∀ d, Answered s 4 (s.gbr + BitVec.ofNat 32 (4 * d.toNat)) →
      Runs (.movlStoreGbr d) s (Stores s 4 (s.gbr + BitVec.ofNat 32 (4 * d.toNat)) (s.reg 0))

/-- DERIVED (20_memory.md sections 4 and 6, 43_data_transfer.md section 6, D3, D22, D32, D33; log 46 for devices). The
stores through `@(PC,R0)`, outside a delay slot. -/
def Obligations.PcRelativeStores : Prop :=
  ∀ (s : State) (m : Reg), s.delayTarget = none →
    (Answered s 1 (s.pc + 4 + s.reg 0) → Runs (.movbStorePc m) s (Stores s 1 (s.pc + 4 + s.reg 0) (s.reg m))) ∧
    (Answered s 2 (s.pc + 4 + s.reg 0) → Runs (.movwStorePc m) s (Stores s 2 (s.pc + 4 + s.reg 0) (s.reg m))) ∧
    (Answered s 4 (s.pc + 4 + s.reg 0) → Runs (.movlStorePc m) s (Stores s 4 (s.pc + 4 + s.reg 0) (s.reg m)))

/-- DERIVED (20_memory.md sections 2 and 4, 43_data_transfer.md sections 5 and 8, D1, D2, D34). What a push to memory
stores a pop loads, in either byte order: `MOV.L Rm, @-Rn` then `MOV.L @Rn+, Rk` gives Rk the value Rm had, whichever of
the three registers are one, and Rn the value it had unless Rk is Rn. -/
def Obligations.PopLoadsWhatPushStored : Prop :=
  ∀ (s : State) (m n k : Reg), Answered s 4 (s.reg n - 4) → ¬OnDevice s (s.reg n - 4) →
    ∃ t u, exec (.movlStoreDec m n) s = .next t ∧ exec (.movlLoadInc n k) t = .next u ∧
      u.reg k = s.reg m ∧ (k ≠ n → u.reg n = s.reg n)

/-- STATED (R265, R282, R356). `MOV Rm, Rn`, `MOV #imm, Rn` and `ADD #imm, Rn`: their words, the value written with the
immediate sign-extended, and that nothing else changes. -/
def Obligations.MoveAndImmediateForms : Prop :=
  (∀ m n : Reg, decode (0x6#4 ++ n ++ m ++ 0x3#4) = .ok (.mov m n)) ∧
  (∀ (n : Reg) (i : BitVec 8), decode (0xE#4 ++ n ++ i) = .ok (.movImm i n) ∧
    decode (0x7#4 ++ n ++ i) = .ok (.addImm i n)) ∧
  ∀ (s : State) (n : Reg),
    (∀ m, Runs (.mov m n) s (SetsReg s n (s.reg m))) ∧
    (∀ i, Runs (.movImm i n) s (SetsReg s n (BitVec.ofInt 32 i.toInt))) ∧
    ∀ i, Runs (.addImm i n) s (SetsReg s n (BitVec.ofInt 32 ((s.reg n).toNat + i.toInt)))

/-! Multiply and divide step (44_multiply_divide.md). -/

/-- DERIVED (44_multiply_divide.md section 1, D2). `MUL.L`, `MULU.W` and `MULS.W` put the product in MACL: modulo 2^32,
and exact from the low halves, unsigned and signed. -/
def Obligations.MultiplyIntoMacl : Prop :=
  ∀ (s : State) (m n : Reg),
    Runs (.mull m n) s (fun t => t.macl.toNat = (s.reg n).toNat * (s.reg m).toNat % 2 ^ 32 ∧
      Frame s t [] 0 [.macl] [] [] ∧ InSequence s t) ∧
    Runs (.muluw m n) s (fun t => t.macl.toNat = (s.reg n).toNat % 2 ^ 16 * ((s.reg m).toNat % 2 ^ 16) ∧
      Frame s t [] 0 [.macl] [] [] ∧ InSequence s t) ∧
    Runs (.mulsw m n) s (fun t =>
      t.macl.toInt = ((s.reg n).extractLsb' 0 16).toInt * ((s.reg m).extractLsb' 0 16).toInt ∧
      Frame s t [] 0 [.macl] [] [] ∧ InSequence s t)

/-- STATED (R303, R304). `DMULU.L` and `DMULS.L`: their words, the exact 64-bit product in MACH:MACL, unsigned and
signed, and that nothing else changes. -/
def Obligations.DoubleMultiplyIsExact : Prop :=
  ∀ m n : Reg, decode (0x3#4 ++ n ++ m ++ 0x5#4) = .ok (.dmulul m n) ∧
    decode (0x3#4 ++ n ++ m ++ 0xD#4) = .ok (.dmulsl m n) ∧
    ∀ s : State,
      Runs (.dmulul m n) s (fun t => t.mach.toNat * 2 ^ 32 + t.macl.toNat = (s.reg n).toNat * (s.reg m).toNat ∧
        Frame s t [] 0 [.mach, .macl] [] [] ∧ InSequence s t) ∧
      Runs (.dmulsl m n) s (fun t => t.mach.toInt * 2 ^ 32 + t.macl.toNat = (s.reg n).toInt * (s.reg m).toInt ∧
        Frame s t [] 0 [.mach, .macl] [] [] ∧ InSequence s t)

/-- DERIVED (44_multiply_divide.md section 2, D2). `DIV0U` and `DIV0S` set M, Q and T; `DIV1` shifts T into the dividend
register, subtracts or adds the divisor, and sets Q and T from the carry `c` of that operation. -/
def Obligations.DivideStepInstructions : Prop :=
  ∀ (s : State) (m n : Reg),
    Runs .div0u s (fun t => t.sr.getLsbD 0 = false ∧ t.sr.getLsbD 8 = false ∧ t.sr.getLsbD 9 = false ∧
      Frame s t [] 0x301 [] [] [] ∧ InSequence s t) ∧
    Runs (.div0s m n) s (fun t => t.sr.getLsbD 8 = (s.reg n).getLsbD 31 ∧ t.sr.getLsbD 9 = (s.reg m).getLsbD 31 ∧
      t.sr.getLsbD 0 = ((s.reg n).getLsbD 31 ^^ (s.reg m).getLsbD 31) ∧
      Frame s t [] 0x301 [] [] [] ∧ InSequence s t) ∧
    Runs (.div1 m n) s (fun t => ∃ (v : DWord) (c : Bool),
      (s.sr.getLsbD 8 = s.sr.getLsbD 9 →
        (v.toNat : Int) - 2 ^ 32 * flag c =
          ((2 * (s.reg n).toNat + flag (srT s)) % 2 ^ 32 : Nat) - ((s.reg m).toNat : Int)) ∧
      (s.sr.getLsbD 8 ≠ s.sr.getLsbD 9 →
        v.toNat + 2 ^ 32 * flag c = (2 * (s.reg n).toNat + flag (srT s)) % 2 ^ 32 + (s.reg m).toNat) ∧
      t.readPhys (s.physOf n) = v ∧
      t.sr.getLsbD 8 = ((s.reg n).getLsbD 31 ^^ c ^^ s.sr.getLsbD 9) ∧
      t.sr.getLsbD 0 = decide (t.sr.getLsbD 8 = s.sr.getLsbD 9) ∧
      Frame s t [s.physOf n] 0x101 [] [] [] ∧ InSequence s t)

/-- DERIVED (44_multiply_divide.md section 2, D2). One `DIV1` of an unsigned division is a step of non-restoring
division: with M = 0, write `p` for the partial remainder `Rn - 2^32 * Q` and `d` for the divisor; while `-d ≤ p < d`
and T is the complement of Q or the bit to shift in, the new partial remainder is `2 p + T - d` when Q = 0 and
`2 p + T + d` when Q = 1, it again lies in `-d .. d - 1`, and the new T is 1 exactly when it is not negative. -/
def Obligations.DivideStepIsNonRestoring : Prop :=
  ∀ (s : State) (m n : Reg), m ≠ n → s.sr.getLsbD 9 = false →
    -((s.reg m).toNat : Int) ≤ (s.reg n).toNat - 2 ^ 32 * flag (s.sr.getLsbD 8) →
    ((s.reg n).toNat : Int) - 2 ^ 32 * flag (s.sr.getLsbD 8) < (s.reg m).toNat →
    Runs (.div1 m n) s fun t =>
      (t.reg n).toNat - 2 ^ 32 * flag (t.sr.getLsbD 8) =
        2 * ((s.reg n).toNat - 2 ^ 32 * flag (s.sr.getLsbD 8) : Int) + flag (srT s) +
          (if s.sr.getLsbD 8 then ((s.reg m).toNat : Int) else -((s.reg m).toNat : Int)) ∧
      -((s.reg m).toNat : Int) ≤ (t.reg n).toNat - 2 ^ 32 * flag (t.sr.getLsbD 8) ∧
      ((t.reg n).toNat : Int) - 2 ^ 32 * flag (t.sr.getLsbD 8) < (s.reg m).toNat ∧
      (srT t = true ↔ (0 : Int) ≤ (t.reg n).toNat - 2 ^ 32 * flag (t.sr.getLsbD 8))

/-! Logic and compare (45_logic_compare.md). -/

/-- STATED (R321, R322, R323, R324). `AND`, `XOR`, `OR`, `NOT` between registers: their words, every bit of the result,
and that nothing else changes. -/
def Obligations.RegisterLogic : Prop :=
  ∀ m n : Reg, decode (0x2#4 ++ n ++ m ++ 0x9#4) = .ok (.and m n) ∧ decode (0x2#4 ++ n ++ m ++ 0xA#4) = .ok (.xor m n) ∧
    decode (0x2#4 ++ n ++ m ++ 0xB#4) = .ok (.or m n) ∧ decode (0x6#4 ++ n ++ m ++ 0x7#4) = .ok (.not m n) ∧
    ∀ s : State,
      Runs (.and m n) s (fun t => ∃ v, SetsReg s n v t ∧
        ∀ i, v.getLsbD i = ((s.reg n).getLsbD i && (s.reg m).getLsbD i)) ∧
      Runs (.xor m n) s (fun t => ∃ v, SetsReg s n v t ∧
        ∀ i, v.getLsbD i = ((s.reg n).getLsbD i ^^ (s.reg m).getLsbD i)) ∧
      Runs (.or m n) s (fun t => ∃ v, SetsReg s n v t ∧
        ∀ i, v.getLsbD i = ((s.reg n).getLsbD i || (s.reg m).getLsbD i)) ∧
      Runs (.not m n) s (fun t => ∃ v, SetsReg s n v t ∧ ∀ i, i < 32 → v.getLsbD i = !(s.reg m).getLsbD i)

/-- DERIVED (45_logic_compare.md sections 1 and 2, D2). `TST` in both forms, and `AND`, `XOR`, `OR` with a zero-extended
immediate on R0. -/
def Obligations.TestsAndImmediateLogic : Prop :=
  ∀ (s : State),
    (∀ m n, Runs (.tst m n) s (SetsT s ((List.range 32).all fun i => !((s.reg n).getLsbD i && (s.reg m).getLsbD i)))) ∧
    ∀ j : BitVec 8,
      Runs (.tstImm j) s (SetsT s ((List.range 8).all fun i => !((s.reg 0).getLsbD i && j.getLsbD i))) ∧
      Runs (.andImm j) s (SetsReg s 0 (BitVec.ofNat 32 ((s.reg 0).toNat &&& j.toNat))) ∧
      Runs (.xorImm j) s (SetsReg s 0 (BitVec.ofNat 32 ((s.reg 0).toNat ^^^ j.toNat))) ∧
      Runs (.orImm j) s (SetsReg s 0 (BitVec.ofNat 32 ((s.reg 0).toNat ||| j.toNat)))

/-- DERIVED (45_logic_compare.md section 3, D2). Every compare writes T and nothing else, and T says whether Rn stands
in the named relation to Rm, to zero, or to the sign-extended immediate. -/
def Obligations.ComparesWriteOnlyT : Prop :=
  ∀ s : State,
    (∀ m n, Runs (.cmpeq m n) s (SetsT s (decide (s.reg n = s.reg m))) ∧
      Runs (.cmphs m n) s (SetsT s (decide ((s.reg n).toNat ≥ (s.reg m).toNat))) ∧
      Runs (.cmpge m n) s (SetsT s (decide ((s.reg n).toInt ≥ (s.reg m).toInt))) ∧
      Runs (.cmphi m n) s (SetsT s (decide ((s.reg n).toNat > (s.reg m).toNat))) ∧
      Runs (.cmpgt m n) s (SetsT s (decide ((s.reg n).toInt > (s.reg m).toInt))) ∧
      Runs (.cmpstr m n) s (SetsT s
        ((List.range 4).any fun k => (s.reg n).extractLsb' (8 * k) 8 == (s.reg m).extractLsb' (8 * k) 8))) ∧
    (∀ n, Runs (.cmppz n) s (SetsT s (!(s.reg n).getLsbD 31)) ∧
      Runs (.cmppl n) s (SetsT s (decide ((s.reg n).toInt > 0)))) ∧
    ∀ i, Runs (.cmpeqImm i) s (SetsT s (decide ((s.reg 0).toInt = i.toInt)))

/-! Arithmetic, extension, rearrangement (46_arithmetic.md). -/

/-- DERIVED (46_arithmetic.md sections 1 and 2, D2). `ADD`, `SUB`, `NEG` modulo 2^32 with T kept, and `DT`, whose T tells
whether the decremented value is zero. -/
def Obligations.AddSubtractNegateDecrement : Prop :=
  ∀ (s : State) (n : Reg),
    (∀ m, Runs (.add m n) s (SetsReg s n (BitVec.ofNat 32 ((s.reg n).toNat + (s.reg m).toNat))) ∧
      Runs (.sub m n) s (SetsReg s n (BitVec.ofInt 32 ((s.reg n).toNat - (s.reg m).toNat))) ∧
      Runs (.neg m n) s (SetsReg s n (BitVec.ofInt 32 (-(s.reg m).toNat)))) ∧
    Runs (.dt n) s (SetsRegT s n (BitVec.ofInt 32 ((s.reg n).toNat - 1)) (decide (s.reg n = 1)))

/-- DERIVED (46_arithmetic.md sections 1 and 2, D2). `ADDC`, `SUBC` and `NEGC` are exact: the result with the carry or
borrow that goes to T is the whole sum or difference with the old T. -/
def Obligations.CarryArithmeticIsExact : Prop :=
  ∀ (s : State) (m n : Reg),
    Runs (.addc m n) s (fun t => ∃ (v : DWord) (c : Bool), SetsRegT s n v c t ∧
      v.toNat + 2 ^ 32 * flag c = (s.reg n).toNat + (s.reg m).toNat + flag (srT s)) ∧
    Runs (.subc m n) s (fun t => ∃ (v : DWord) (c : Bool), SetsRegT s n v c t ∧
      v.toNat - 2 ^ 32 * flag c = ((s.reg n).toNat - (s.reg m).toNat - flag (srT s) : Int)) ∧
    Runs (.negc m n) s (fun t => ∃ (v : DWord) (c : Bool), SetsRegT s n v c t ∧
      v.toNat - 2 ^ 32 * flag c = (0 - (s.reg m).toNat - flag (srT s) : Int))

/-- DERIVED (46_arithmetic.md section 1, D2). `ADDV` and `SUBV` wrap, and T tells whether the signed result is not the
exact one. -/
def Obligations.OverflowArithmeticReportsInT : Prop :=
  ∀ (s : State) (m n : Reg),
    Runs (.addv m n) s (SetsRegT s n (s.reg n + s.reg m)
      (decide ((s.reg n + s.reg m).toInt ≠ (s.reg n).toInt + (s.reg m).toInt))) ∧
    Runs (.subv m n) s (SetsRegT s n (s.reg n - s.reg m)
      (decide ((s.reg n - s.reg m).toInt ≠ (s.reg n).toInt - (s.reg m).toInt)))

/-- STATED (R360, R361, R362, R363). The four extensions: their words, the value of the low byte or word read as
unsigned or signed, and that nothing else changes. -/
def Obligations.ExtensionsOfLowPart : Prop :=
  ∀ m n : Reg, decode (0x6#4 ++ n ++ m ++ 0xC#4) = .ok (.extub m n) ∧
    decode (0x6#4 ++ n ++ m ++ 0xD#4) = .ok (.extuw m n) ∧ decode (0x6#4 ++ n ++ m ++ 0xE#4) = .ok (.extsb m n) ∧
    decode (0x6#4 ++ n ++ m ++ 0xF#4) = .ok (.extsw m n) ∧
    ∀ s : State,
      Runs (.extub m n) s (SetsReg s n (BitVec.ofNat 32 ((s.reg m).toNat % 2 ^ 8))) ∧
      Runs (.extuw m n) s (SetsReg s n (BitVec.ofNat 32 ((s.reg m).toNat % 2 ^ 16))) ∧
      Runs (.extsb m n) s (SetsReg s n (BitVec.ofInt 32 ((s.reg m).extractLsb' 0 8).toInt)) ∧
      Runs (.extsw m n) s (SetsReg s n (BitVec.ofInt 32 ((s.reg m).extractLsb' 0 16).toInt))

/-- DERIVED (46_arithmetic.md section 4, D2). `SWAP.B`, `SWAP.W` and `XTRCT`, part by part. -/
def Obligations.SwapsAndExtract : Prop :=
  ∀ (s : State) (m n : Reg),
    Runs (.swapb m n) s (fun t => ∃ v : DWord, SetsReg s n v t ∧
      v.extractLsb' 0 8 = (s.reg m).extractLsb' 8 8 ∧ v.extractLsb' 8 8 = (s.reg m).extractLsb' 0 8 ∧
      v.extractLsb' 16 16 = (s.reg m).extractLsb' 16 16) ∧
    Runs (.swapw m n) s (fun t => ∃ v : DWord, SetsReg s n v t ∧
      v.extractLsb' 0 16 = (s.reg m).extractLsb' 16 16 ∧ v.extractLsb' 16 16 = (s.reg m).extractLsb' 0 16) ∧
    Runs (.xtrct m n) s (fun t => ∃ v : DWord, SetsReg s n v t ∧
      v.extractLsb' 16 16 = (s.reg m).extractLsb' 0 16 ∧ v.extractLsb' 0 16 = (s.reg n).extractLsb' 16 16)

/-! Shifts and rotates (47_shift.md). -/

/-- DERIVED (47_shift.md sections 1 and 2, D2). The one-bit shifts and rotates: the value, and in T the bit that left
the register; the rotates through T take the old T in. -/
def Obligations.OneBitShiftsAndRotates : Prop :=
  ∀ (s : State) (n : Reg),
    Runs (.shll n) s (SetsRegT s n (BitVec.ofNat 32 (2 * (s.reg n).toNat)) ((s.reg n).getLsbD 31)) ∧
    Runs (.shal n) s (SetsRegT s n (BitVec.ofNat 32 (2 * (s.reg n).toNat)) ((s.reg n).getLsbD 31)) ∧
    Runs (.shlr n) s (SetsRegT s n (BitVec.ofNat 32 ((s.reg n).toNat / 2)) ((s.reg n).getLsbD 0)) ∧
    Runs (.shar n) s (SetsRegT s n (BitVec.ofInt 32 ((s.reg n).toInt / 2)) ((s.reg n).getLsbD 0)) ∧
    Runs (.rotl n) s (SetsRegT s n ((s.reg n).rotateLeft 1) ((s.reg n).getLsbD 31)) ∧
    Runs (.rotr n) s (SetsRegT s n ((s.reg n).rotateRight 1) ((s.reg n).getLsbD 0)) ∧
    Runs (.rotcl n) s (SetsRegT s n (BitVec.ofNat 32 (2 * (s.reg n).toNat + flag (srT s))) ((s.reg n).getLsbD 31)) ∧
    Runs (.rotcr n) s
      (SetsRegT s n (BitVec.ofNat 32 ((s.reg n).toNat / 2 + 2 ^ 31 * flag (srT s))) ((s.reg n).getLsbD 0))

/-- DERIVED (47_shift.md section 3, D2). The fixed shifts multiply and divide by a power of two, with T kept. -/
def Obligations.FixedShifts : Prop :=
  ∀ (s : State) (n : Reg),
    Runs (.shll2 n) s (SetsReg s n (BitVec.ofNat 32 ((s.reg n).toNat * 2 ^ 2))) ∧
    Runs (.shll8 n) s (SetsReg s n (BitVec.ofNat 32 ((s.reg n).toNat * 2 ^ 8))) ∧
    Runs (.shll16 n) s (SetsReg s n (BitVec.ofNat 32 ((s.reg n).toNat * 2 ^ 16))) ∧
    Runs (.shll4 n) s (SetsReg s n (BitVec.ofNat 32 ((s.reg n).toNat * 2 ^ 4))) ∧
    Runs (.shlr2 n) s (SetsReg s n (BitVec.ofNat 32 ((s.reg n).toNat / 2 ^ 2))) ∧
    Runs (.shlr8 n) s (SetsReg s n (BitVec.ofNat 32 ((s.reg n).toNat / 2 ^ 8))) ∧
    Runs (.shlr16 n) s (SetsReg s n (BitVec.ofNat 32 ((s.reg n).toNat / 2 ^ 16))) ∧
    Runs (.shlr4 n) s (SetsReg s n (BitVec.ofNat 32 ((s.reg n).toNat / 2 ^ 4)))

/-- DERIVED (47_shift.md section 4, D2). `SHAD` and `SHLD` for every amount: the sign chooses the direction, the low five
bits the count, and a negative amount whose low five bits are 0 shifts right by 32. -/
def Obligations.DynamicShifts : Prop :=
  ∀ (s : State) (m n : Reg),
    (0 ≤ (s.reg m).toInt →
      Runs (.shad m n) s (SetsReg s n (BitVec.ofNat 32 ((s.reg n).toNat * 2 ^ leftCount (s.reg m)))) ∧
      Runs (.shld m n) s (SetsReg s n (BitVec.ofNat 32 ((s.reg n).toNat * 2 ^ leftCount (s.reg m))))) ∧
    ((s.reg m).toInt < 0 →
      Runs (.shad m n) s (SetsReg s n (BitVec.ofInt 32 ((s.reg n).toInt / 2 ^ rightCount (s.reg m)))) ∧
      Runs (.shld m n) s (SetsReg s n (BitVec.ofNat 32 ((s.reg n).toNat / 2 ^ rightCount (s.reg m)))))
end

