-- ==== Sys2Proof/Laws/State.lean ====
section
/-! SUPPORT. What each update of the state leaves in each field: one lemma for each field and update, so that no
proof unfolds an update. -/

namespace Sys2Proof.Machine

variable (s : State)

/-! `State.withT` -/

@[simp] theorem withT_bankA (b : Bool) : (s.withT b).bankA = s.bankA := rfl
@[simp] theorem withT_bankB (b : Bool) : (s.withT b).bankB = s.bankB := rfl
@[simp] theorem withT_high (b : Bool) : (s.withT b).high = s.high := rfl
@[simp] theorem withT_pc (b : Bool) : (s.withT b).pc = s.pc := rfl
@[simp] theorem withT_sr (b : Bool) : (s.withT b).sr = setBit s.sr 0 b := rfl
@[simp] theorem withT_gbr (b : Bool) : (s.withT b).gbr = s.gbr := rfl
@[simp] theorem withT_vbr (b : Bool) : (s.withT b).vbr = s.vbr := rfl
@[simp] theorem withT_ssr (b : Bool) : (s.withT b).ssr = s.ssr := rfl
@[simp] theorem withT_spc (b : Bool) : (s.withT b).spc = s.spc := rfl
@[simp] theorem withT_sgr (b : Bool) : (s.withT b).sgr = s.sgr := rfl
@[simp] theorem withT_dbr (b : Bool) : (s.withT b).dbr = s.dbr := rfl
@[simp] theorem withT_mach (b : Bool) : (s.withT b).mach = s.mach := rfl
@[simp] theorem withT_macl (b : Bool) : (s.withT b).macl = s.macl := rfl
@[simp] theorem withT_pr (b : Bool) : (s.withT b).pr = s.pr := rfl
@[simp] theorem withT_fpul (b : Bool) : (s.withT b).fpul = s.fpul := rfl
@[simp] theorem withT_fpscr (b : Bool) : (s.withT b).fpscr = s.fpscr := rfl
@[simp] theorem withT_delayTarget (b : Bool) : (s.withT b).delayTarget = s.delayTarget := rfl
@[simp] theorem withT_sleeping (b : Bool) : (s.withT b).sleeping = s.sleeping := rfl
@[simp] theorem withT_lastCause (b : Bool) : (s.withT b).lastCause = s.lastCause := rfl
@[simp] theorem withT_icacheStale (b : Bool) : (s.withT b).icacheStale = s.icacheStale := rfl
@[simp] theorem withT_mem (b : Bool) : (s.withT b).mem = s.mem := rfl
@[simp] theorem withT_irqs (b : Bool) : (s.withT b).irqs = s.irqs := rfl
@[simp] theorem withT_deviceInput (b : Bool) : (s.withT b).deviceInput = s.deviceInput := rfl
@[simp] theorem withT_deviceLog (b : Bool) : (s.withT b).deviceLog = s.deviceLog := rfl
@[simp] theorem withT_cfg (b : Bool) : (s.withT b).cfg = s.cfg := rfl

/-! `State.withS` -/

@[simp] theorem withS_bankA (b : Bool) : (s.withS b).bankA = s.bankA := rfl
@[simp] theorem withS_bankB (b : Bool) : (s.withS b).bankB = s.bankB := rfl
@[simp] theorem withS_high (b : Bool) : (s.withS b).high = s.high := rfl
@[simp] theorem withS_pc (b : Bool) : (s.withS b).pc = s.pc := rfl
@[simp] theorem withS_sr (b : Bool) : (s.withS b).sr = setBit s.sr 1 b := rfl
@[simp] theorem withS_gbr (b : Bool) : (s.withS b).gbr = s.gbr := rfl
@[simp] theorem withS_vbr (b : Bool) : (s.withS b).vbr = s.vbr := rfl
@[simp] theorem withS_ssr (b : Bool) : (s.withS b).ssr = s.ssr := rfl
@[simp] theorem withS_spc (b : Bool) : (s.withS b).spc = s.spc := rfl
@[simp] theorem withS_sgr (b : Bool) : (s.withS b).sgr = s.sgr := rfl
@[simp] theorem withS_dbr (b : Bool) : (s.withS b).dbr = s.dbr := rfl
@[simp] theorem withS_mach (b : Bool) : (s.withS b).mach = s.mach := rfl
@[simp] theorem withS_macl (b : Bool) : (s.withS b).macl = s.macl := rfl
@[simp] theorem withS_pr (b : Bool) : (s.withS b).pr = s.pr := rfl
@[simp] theorem withS_fpul (b : Bool) : (s.withS b).fpul = s.fpul := rfl
@[simp] theorem withS_fpscr (b : Bool) : (s.withS b).fpscr = s.fpscr := rfl
@[simp] theorem withS_delayTarget (b : Bool) : (s.withS b).delayTarget = s.delayTarget := rfl
@[simp] theorem withS_sleeping (b : Bool) : (s.withS b).sleeping = s.sleeping := rfl
@[simp] theorem withS_lastCause (b : Bool) : (s.withS b).lastCause = s.lastCause := rfl
@[simp] theorem withS_icacheStale (b : Bool) : (s.withS b).icacheStale = s.icacheStale := rfl
@[simp] theorem withS_mem (b : Bool) : (s.withS b).mem = s.mem := rfl
@[simp] theorem withS_irqs (b : Bool) : (s.withS b).irqs = s.irqs := rfl
@[simp] theorem withS_deviceInput (b : Bool) : (s.withS b).deviceInput = s.deviceInput := rfl
@[simp] theorem withS_deviceLog (b : Bool) : (s.withS b).deviceLog = s.deviceLog := rfl
@[simp] theorem withS_cfg (b : Bool) : (s.withS b).cfg = s.cfg := rfl

/-! `State.withQ` -/

@[simp] theorem withQ_bankA (b : Bool) : (s.withQ b).bankA = s.bankA := rfl
@[simp] theorem withQ_bankB (b : Bool) : (s.withQ b).bankB = s.bankB := rfl
@[simp] theorem withQ_high (b : Bool) : (s.withQ b).high = s.high := rfl
@[simp] theorem withQ_pc (b : Bool) : (s.withQ b).pc = s.pc := rfl
@[simp] theorem withQ_sr (b : Bool) : (s.withQ b).sr = setBit s.sr 8 b := rfl
@[simp] theorem withQ_gbr (b : Bool) : (s.withQ b).gbr = s.gbr := rfl
@[simp] theorem withQ_vbr (b : Bool) : (s.withQ b).vbr = s.vbr := rfl
@[simp] theorem withQ_ssr (b : Bool) : (s.withQ b).ssr = s.ssr := rfl
@[simp] theorem withQ_spc (b : Bool) : (s.withQ b).spc = s.spc := rfl
@[simp] theorem withQ_sgr (b : Bool) : (s.withQ b).sgr = s.sgr := rfl
@[simp] theorem withQ_dbr (b : Bool) : (s.withQ b).dbr = s.dbr := rfl
@[simp] theorem withQ_mach (b : Bool) : (s.withQ b).mach = s.mach := rfl
@[simp] theorem withQ_macl (b : Bool) : (s.withQ b).macl = s.macl := rfl
@[simp] theorem withQ_pr (b : Bool) : (s.withQ b).pr = s.pr := rfl
@[simp] theorem withQ_fpul (b : Bool) : (s.withQ b).fpul = s.fpul := rfl
@[simp] theorem withQ_fpscr (b : Bool) : (s.withQ b).fpscr = s.fpscr := rfl
@[simp] theorem withQ_delayTarget (b : Bool) : (s.withQ b).delayTarget = s.delayTarget := rfl
@[simp] theorem withQ_sleeping (b : Bool) : (s.withQ b).sleeping = s.sleeping := rfl
@[simp] theorem withQ_lastCause (b : Bool) : (s.withQ b).lastCause = s.lastCause := rfl
@[simp] theorem withQ_icacheStale (b : Bool) : (s.withQ b).icacheStale = s.icacheStale := rfl
@[simp] theorem withQ_mem (b : Bool) : (s.withQ b).mem = s.mem := rfl
@[simp] theorem withQ_irqs (b : Bool) : (s.withQ b).irqs = s.irqs := rfl
@[simp] theorem withQ_deviceInput (b : Bool) : (s.withQ b).deviceInput = s.deviceInput := rfl
@[simp] theorem withQ_deviceLog (b : Bool) : (s.withQ b).deviceLog = s.deviceLog := rfl
@[simp] theorem withQ_cfg (b : Bool) : (s.withQ b).cfg = s.cfg := rfl

/-! `State.withM` -/

@[simp] theorem withM_bankA (b : Bool) : (s.withM b).bankA = s.bankA := rfl
@[simp] theorem withM_bankB (b : Bool) : (s.withM b).bankB = s.bankB := rfl
@[simp] theorem withM_high (b : Bool) : (s.withM b).high = s.high := rfl
@[simp] theorem withM_pc (b : Bool) : (s.withM b).pc = s.pc := rfl
@[simp] theorem withM_sr (b : Bool) : (s.withM b).sr = setBit s.sr 9 b := rfl
@[simp] theorem withM_gbr (b : Bool) : (s.withM b).gbr = s.gbr := rfl
@[simp] theorem withM_vbr (b : Bool) : (s.withM b).vbr = s.vbr := rfl
@[simp] theorem withM_ssr (b : Bool) : (s.withM b).ssr = s.ssr := rfl
@[simp] theorem withM_spc (b : Bool) : (s.withM b).spc = s.spc := rfl
@[simp] theorem withM_sgr (b : Bool) : (s.withM b).sgr = s.sgr := rfl
@[simp] theorem withM_dbr (b : Bool) : (s.withM b).dbr = s.dbr := rfl
@[simp] theorem withM_mach (b : Bool) : (s.withM b).mach = s.mach := rfl
@[simp] theorem withM_macl (b : Bool) : (s.withM b).macl = s.macl := rfl
@[simp] theorem withM_pr (b : Bool) : (s.withM b).pr = s.pr := rfl
@[simp] theorem withM_fpul (b : Bool) : (s.withM b).fpul = s.fpul := rfl
@[simp] theorem withM_fpscr (b : Bool) : (s.withM b).fpscr = s.fpscr := rfl
@[simp] theorem withM_delayTarget (b : Bool) : (s.withM b).delayTarget = s.delayTarget := rfl
@[simp] theorem withM_sleeping (b : Bool) : (s.withM b).sleeping = s.sleeping := rfl
@[simp] theorem withM_lastCause (b : Bool) : (s.withM b).lastCause = s.lastCause := rfl
@[simp] theorem withM_icacheStale (b : Bool) : (s.withM b).icacheStale = s.icacheStale := rfl
@[simp] theorem withM_mem (b : Bool) : (s.withM b).mem = s.mem := rfl
@[simp] theorem withM_irqs (b : Bool) : (s.withM b).irqs = s.irqs := rfl
@[simp] theorem withM_deviceInput (b : Bool) : (s.withM b).deviceInput = s.deviceInput := rfl
@[simp] theorem withM_deviceLog (b : Bool) : (s.withM b).deviceLog = s.deviceLog := rfl
@[simp] theorem withM_cfg (b : Bool) : (s.withM b).cfg = s.cfg := rfl

/-! `State.setByte` -/

@[simp] theorem setByte_bankA (a : DWord) (v : Byte) : (s.setByte a v).bankA = s.bankA := rfl
@[simp] theorem setByte_bankB (a : DWord) (v : Byte) : (s.setByte a v).bankB = s.bankB := rfl
@[simp] theorem setByte_high (a : DWord) (v : Byte) : (s.setByte a v).high = s.high := rfl
@[simp] theorem setByte_pc (a : DWord) (v : Byte) : (s.setByte a v).pc = s.pc := rfl
@[simp] theorem setByte_sr (a : DWord) (v : Byte) : (s.setByte a v).sr = s.sr := rfl
@[simp] theorem setByte_gbr (a : DWord) (v : Byte) : (s.setByte a v).gbr = s.gbr := rfl
@[simp] theorem setByte_vbr (a : DWord) (v : Byte) : (s.setByte a v).vbr = s.vbr := rfl
@[simp] theorem setByte_ssr (a : DWord) (v : Byte) : (s.setByte a v).ssr = s.ssr := rfl
@[simp] theorem setByte_spc (a : DWord) (v : Byte) : (s.setByte a v).spc = s.spc := rfl
@[simp] theorem setByte_sgr (a : DWord) (v : Byte) : (s.setByte a v).sgr = s.sgr := rfl
@[simp] theorem setByte_dbr (a : DWord) (v : Byte) : (s.setByte a v).dbr = s.dbr := rfl
@[simp] theorem setByte_mach (a : DWord) (v : Byte) : (s.setByte a v).mach = s.mach := rfl
@[simp] theorem setByte_macl (a : DWord) (v : Byte) : (s.setByte a v).macl = s.macl := rfl
@[simp] theorem setByte_pr (a : DWord) (v : Byte) : (s.setByte a v).pr = s.pr := rfl
@[simp] theorem setByte_fpul (a : DWord) (v : Byte) : (s.setByte a v).fpul = s.fpul := rfl
@[simp] theorem setByte_fpscr (a : DWord) (v : Byte) : (s.setByte a v).fpscr = s.fpscr := rfl
@[simp] theorem setByte_delayTarget (a : DWord) (v : Byte) : (s.setByte a v).delayTarget = s.delayTarget := rfl
@[simp] theorem setByte_sleeping (a : DWord) (v : Byte) : (s.setByte a v).sleeping = s.sleeping := rfl
@[simp] theorem setByte_lastCause (a : DWord) (v : Byte) : (s.setByte a v).lastCause = s.lastCause := rfl
@[simp] theorem setByte_icacheStale (a : DWord) (v : Byte) : (s.setByte a v).icacheStale = s.icacheStale := rfl
@[simp] theorem setByte_mem (a : DWord) (v : Byte) : (s.setByte a v).mem = Memory.set s.mem a.toNat v := rfl
@[simp] theorem setByte_irqs (a : DWord) (v : Byte) : (s.setByte a v).irqs = s.irqs := rfl
@[simp] theorem setByte_deviceInput (a : DWord) (v : Byte) : (s.setByte a v).deviceInput = s.deviceInput := rfl
@[simp] theorem setByte_deviceLog (a : DWord) (v : Byte) : (s.setByte a v).deviceLog = s.deviceLog := rfl
@[simp] theorem setByte_cfg (a : DWord) (v : Byte) : (s.setByte a v).cfg = s.cfg := rfl

/-! `State.setLane` -/

@[simp] theorem setLane_bankA (n : Width) (a v : DWord) (k : Nat) : (s.setLane n a v k).bankA = s.bankA := rfl
@[simp] theorem setLane_bankB (n : Width) (a v : DWord) (k : Nat) : (s.setLane n a v k).bankB = s.bankB := rfl
@[simp] theorem setLane_high (n : Width) (a v : DWord) (k : Nat) : (s.setLane n a v k).high = s.high := rfl
@[simp] theorem setLane_pc (n : Width) (a v : DWord) (k : Nat) : (s.setLane n a v k).pc = s.pc := rfl
@[simp] theorem setLane_sr (n : Width) (a v : DWord) (k : Nat) : (s.setLane n a v k).sr = s.sr := rfl
@[simp] theorem setLane_gbr (n : Width) (a v : DWord) (k : Nat) : (s.setLane n a v k).gbr = s.gbr := rfl
@[simp] theorem setLane_vbr (n : Width) (a v : DWord) (k : Nat) : (s.setLane n a v k).vbr = s.vbr := rfl
@[simp] theorem setLane_ssr (n : Width) (a v : DWord) (k : Nat) : (s.setLane n a v k).ssr = s.ssr := rfl
@[simp] theorem setLane_spc (n : Width) (a v : DWord) (k : Nat) : (s.setLane n a v k).spc = s.spc := rfl
@[simp] theorem setLane_sgr (n : Width) (a v : DWord) (k : Nat) : (s.setLane n a v k).sgr = s.sgr := rfl
@[simp] theorem setLane_dbr (n : Width) (a v : DWord) (k : Nat) : (s.setLane n a v k).dbr = s.dbr := rfl
@[simp] theorem setLane_mach (n : Width) (a v : DWord) (k : Nat) : (s.setLane n a v k).mach = s.mach := rfl
@[simp] theorem setLane_macl (n : Width) (a v : DWord) (k : Nat) : (s.setLane n a v k).macl = s.macl := rfl
@[simp] theorem setLane_pr (n : Width) (a v : DWord) (k : Nat) : (s.setLane n a v k).pr = s.pr := rfl
@[simp] theorem setLane_fpul (n : Width) (a v : DWord) (k : Nat) : (s.setLane n a v k).fpul = s.fpul := rfl
@[simp] theorem setLane_fpscr (n : Width) (a v : DWord) (k : Nat) : (s.setLane n a v k).fpscr = s.fpscr := rfl
@[simp] theorem setLane_delayTarget (n : Width) (a v : DWord) (k : Nat) : (s.setLane n a v k).delayTarget = s.delayTarget := rfl
@[simp] theorem setLane_sleeping (n : Width) (a v : DWord) (k : Nat) : (s.setLane n a v k).sleeping = s.sleeping := rfl
@[simp] theorem setLane_lastCause (n : Width) (a v : DWord) (k : Nat) : (s.setLane n a v k).lastCause = s.lastCause := rfl
@[simp] theorem setLane_icacheStale (n : Width) (a v : DWord) (k : Nat) : (s.setLane n a v k).icacheStale = s.icacheStale := rfl
@[simp] theorem setLane_irqs (n : Width) (a v : DWord) (k : Nat) : (s.setLane n a v k).irqs = s.irqs := rfl
@[simp] theorem setLane_deviceInput (n : Width) (a v : DWord) (k : Nat) : (s.setLane n a v k).deviceInput = s.deviceInput := rfl
@[simp] theorem setLane_deviceLog (n : Width) (a v : DWord) (k : Nat) : (s.setLane n a v k).deviceLog = s.deviceLog := rfl
@[simp] theorem setLane_cfg (n : Width) (a v : DWord) (k : Nat) : (s.setLane n a v k).cfg = s.cfg := rfl

/-! `State.writeBytes` -/

@[simp] theorem writeBytes_bankA (n : Width) (a v : DWord) : (s.writeBytes n a v).bankA = s.bankA := by cases n <;> simp [State.writeBytes]
@[simp] theorem writeBytes_bankB (n : Width) (a v : DWord) : (s.writeBytes n a v).bankB = s.bankB := by cases n <;> simp [State.writeBytes]
@[simp] theorem writeBytes_high (n : Width) (a v : DWord) : (s.writeBytes n a v).high = s.high := by cases n <;> simp [State.writeBytes]
@[simp] theorem writeBytes_pc (n : Width) (a v : DWord) : (s.writeBytes n a v).pc = s.pc := by cases n <;> simp [State.writeBytes]
@[simp] theorem writeBytes_sr (n : Width) (a v : DWord) : (s.writeBytes n a v).sr = s.sr := by cases n <;> simp [State.writeBytes]
@[simp] theorem writeBytes_gbr (n : Width) (a v : DWord) : (s.writeBytes n a v).gbr = s.gbr := by cases n <;> simp [State.writeBytes]
@[simp] theorem writeBytes_vbr (n : Width) (a v : DWord) : (s.writeBytes n a v).vbr = s.vbr := by cases n <;> simp [State.writeBytes]
@[simp] theorem writeBytes_ssr (n : Width) (a v : DWord) : (s.writeBytes n a v).ssr = s.ssr := by cases n <;> simp [State.writeBytes]
@[simp] theorem writeBytes_spc (n : Width) (a v : DWord) : (s.writeBytes n a v).spc = s.spc := by cases n <;> simp [State.writeBytes]
@[simp] theorem writeBytes_sgr (n : Width) (a v : DWord) : (s.writeBytes n a v).sgr = s.sgr := by cases n <;> simp [State.writeBytes]
@[simp] theorem writeBytes_dbr (n : Width) (a v : DWord) : (s.writeBytes n a v).dbr = s.dbr := by cases n <;> simp [State.writeBytes]
@[simp] theorem writeBytes_mach (n : Width) (a v : DWord) : (s.writeBytes n a v).mach = s.mach := by cases n <;> simp [State.writeBytes]
@[simp] theorem writeBytes_macl (n : Width) (a v : DWord) : (s.writeBytes n a v).macl = s.macl := by cases n <;> simp [State.writeBytes]
@[simp] theorem writeBytes_pr (n : Width) (a v : DWord) : (s.writeBytes n a v).pr = s.pr := by cases n <;> simp [State.writeBytes]
@[simp] theorem writeBytes_fpul (n : Width) (a v : DWord) : (s.writeBytes n a v).fpul = s.fpul := by cases n <;> simp [State.writeBytes]
@[simp] theorem writeBytes_fpscr (n : Width) (a v : DWord) : (s.writeBytes n a v).fpscr = s.fpscr := by cases n <;> simp [State.writeBytes]
@[simp] theorem writeBytes_delayTarget (n : Width) (a v : DWord) : (s.writeBytes n a v).delayTarget = s.delayTarget := by cases n <;> simp [State.writeBytes]
@[simp] theorem writeBytes_sleeping (n : Width) (a v : DWord) : (s.writeBytes n a v).sleeping = s.sleeping := by cases n <;> simp [State.writeBytes]
@[simp] theorem writeBytes_lastCause (n : Width) (a v : DWord) : (s.writeBytes n a v).lastCause = s.lastCause := by cases n <;> simp [State.writeBytes]
@[simp] theorem writeBytes_icacheStale (n : Width) (a v : DWord) : (s.writeBytes n a v).icacheStale = s.icacheStale := by cases n <;> simp [State.writeBytes]
@[simp] theorem writeBytes_irqs (n : Width) (a v : DWord) : (s.writeBytes n a v).irqs = s.irqs := by cases n <;> simp [State.writeBytes]
@[simp] theorem writeBytes_deviceInput (n : Width) (a v : DWord) : (s.writeBytes n a v).deviceInput = s.deviceInput := by cases n <;> simp [State.writeBytes]
@[simp] theorem writeBytes_deviceLog (n : Width) (a v : DWord) : (s.writeBytes n a v).deviceLog = s.deviceLog := by cases n <;> simp [State.writeBytes]
@[simp] theorem writeBytes_cfg (n : Width) (a v : DWord) : (s.writeBytes n a v).cfg = s.cfg := by cases n <;> simp [State.writeBytes]

/-! `State.deviceRead` -/

@[simp] theorem deviceRead_bankA (n : Width) (a : DWord) : (s.deviceRead n a).bankA = s.bankA := rfl
@[simp] theorem deviceRead_bankB (n : Width) (a : DWord) : (s.deviceRead n a).bankB = s.bankB := rfl
@[simp] theorem deviceRead_high (n : Width) (a : DWord) : (s.deviceRead n a).high = s.high := rfl
@[simp] theorem deviceRead_pc (n : Width) (a : DWord) : (s.deviceRead n a).pc = s.pc := rfl
@[simp] theorem deviceRead_sr (n : Width) (a : DWord) : (s.deviceRead n a).sr = s.sr := rfl
@[simp] theorem deviceRead_gbr (n : Width) (a : DWord) : (s.deviceRead n a).gbr = s.gbr := rfl
@[simp] theorem deviceRead_vbr (n : Width) (a : DWord) : (s.deviceRead n a).vbr = s.vbr := rfl
@[simp] theorem deviceRead_ssr (n : Width) (a : DWord) : (s.deviceRead n a).ssr = s.ssr := rfl
@[simp] theorem deviceRead_spc (n : Width) (a : DWord) : (s.deviceRead n a).spc = s.spc := rfl
@[simp] theorem deviceRead_sgr (n : Width) (a : DWord) : (s.deviceRead n a).sgr = s.sgr := rfl
@[simp] theorem deviceRead_dbr (n : Width) (a : DWord) : (s.deviceRead n a).dbr = s.dbr := rfl
@[simp] theorem deviceRead_mach (n : Width) (a : DWord) : (s.deviceRead n a).mach = s.mach := rfl
@[simp] theorem deviceRead_macl (n : Width) (a : DWord) : (s.deviceRead n a).macl = s.macl := rfl
@[simp] theorem deviceRead_pr (n : Width) (a : DWord) : (s.deviceRead n a).pr = s.pr := rfl
@[simp] theorem deviceRead_fpul (n : Width) (a : DWord) : (s.deviceRead n a).fpul = s.fpul := rfl
@[simp] theorem deviceRead_fpscr (n : Width) (a : DWord) : (s.deviceRead n a).fpscr = s.fpscr := rfl
@[simp] theorem deviceRead_delayTarget (n : Width) (a : DWord) : (s.deviceRead n a).delayTarget = s.delayTarget := rfl
@[simp] theorem deviceRead_sleeping (n : Width) (a : DWord) : (s.deviceRead n a).sleeping = s.sleeping := rfl
@[simp] theorem deviceRead_lastCause (n : Width) (a : DWord) : (s.deviceRead n a).lastCause = s.lastCause := rfl
@[simp] theorem deviceRead_icacheStale (n : Width) (a : DWord) : (s.deviceRead n a).icacheStale = s.icacheStale := rfl
@[simp] theorem deviceRead_mem (n : Width) (a : DWord) : (s.deviceRead n a).mem = s.mem := rfl
@[simp] theorem deviceRead_irqs (n : Width) (a : DWord) : (s.deviceRead n a).irqs = s.irqs := rfl
@[simp] theorem deviceRead_deviceInput (n : Width) (a : DWord) : (s.deviceRead n a).deviceInput = s.deviceInput.tail := rfl
@[simp] theorem deviceRead_deviceLog (n : Width) (a : DWord) :
    (s.deviceRead n a).deviceLog = .read n.bytes a (s.deviceValue n) :: s.deviceLog := rfl
@[simp] theorem deviceRead_cfg (n : Width) (a : DWord) : (s.deviceRead n a).cfg = s.cfg := rfl

/-! `State.deviceWrite` -/

@[simp] theorem deviceWrite_bankA (n : Width) (a v : DWord) : (s.deviceWrite n a v).bankA = s.bankA := rfl
@[simp] theorem deviceWrite_bankB (n : Width) (a v : DWord) : (s.deviceWrite n a v).bankB = s.bankB := rfl
@[simp] theorem deviceWrite_high (n : Width) (a v : DWord) : (s.deviceWrite n a v).high = s.high := rfl
@[simp] theorem deviceWrite_pc (n : Width) (a v : DWord) : (s.deviceWrite n a v).pc = s.pc := rfl
@[simp] theorem deviceWrite_sr (n : Width) (a v : DWord) : (s.deviceWrite n a v).sr = s.sr := rfl
@[simp] theorem deviceWrite_gbr (n : Width) (a v : DWord) : (s.deviceWrite n a v).gbr = s.gbr := rfl
@[simp] theorem deviceWrite_vbr (n : Width) (a v : DWord) : (s.deviceWrite n a v).vbr = s.vbr := rfl
@[simp] theorem deviceWrite_ssr (n : Width) (a v : DWord) : (s.deviceWrite n a v).ssr = s.ssr := rfl
@[simp] theorem deviceWrite_spc (n : Width) (a v : DWord) : (s.deviceWrite n a v).spc = s.spc := rfl
@[simp] theorem deviceWrite_sgr (n : Width) (a v : DWord) : (s.deviceWrite n a v).sgr = s.sgr := rfl
@[simp] theorem deviceWrite_dbr (n : Width) (a v : DWord) : (s.deviceWrite n a v).dbr = s.dbr := rfl
@[simp] theorem deviceWrite_mach (n : Width) (a v : DWord) : (s.deviceWrite n a v).mach = s.mach := rfl
@[simp] theorem deviceWrite_macl (n : Width) (a v : DWord) : (s.deviceWrite n a v).macl = s.macl := rfl
@[simp] theorem deviceWrite_pr (n : Width) (a v : DWord) : (s.deviceWrite n a v).pr = s.pr := rfl
@[simp] theorem deviceWrite_fpul (n : Width) (a v : DWord) : (s.deviceWrite n a v).fpul = s.fpul := rfl
@[simp] theorem deviceWrite_fpscr (n : Width) (a v : DWord) : (s.deviceWrite n a v).fpscr = s.fpscr := rfl
@[simp] theorem deviceWrite_delayTarget (n : Width) (a v : DWord) : (s.deviceWrite n a v).delayTarget = s.delayTarget := rfl
@[simp] theorem deviceWrite_sleeping (n : Width) (a v : DWord) : (s.deviceWrite n a v).sleeping = s.sleeping := rfl
@[simp] theorem deviceWrite_lastCause (n : Width) (a v : DWord) : (s.deviceWrite n a v).lastCause = s.lastCause := rfl
@[simp] theorem deviceWrite_icacheStale (n : Width) (a v : DWord) : (s.deviceWrite n a v).icacheStale = s.icacheStale := rfl
@[simp] theorem deviceWrite_mem (n : Width) (a v : DWord) : (s.deviceWrite n a v).mem = s.mem := rfl
@[simp] theorem deviceWrite_irqs (n : Width) (a v : DWord) : (s.deviceWrite n a v).irqs = s.irqs := rfl
@[simp] theorem deviceWrite_deviceInput (n : Width) (a v : DWord) : (s.deviceWrite n a v).deviceInput = s.deviceInput := rfl
@[simp] theorem deviceWrite_deviceLog (n : Width) (a v : DWord) :
    (s.deviceWrite n a v).deviceLog = .write n.bytes a (v &&& n.valueMask) :: s.deviceLog := rfl
@[simp] theorem deviceWrite_cfg (n : Width) (a v : DWord) : (s.deviceWrite n a v).cfg = s.cfg := rfl

/-! `State.afterLoad` -/

@[simp] theorem afterLoad_bankA (n : Width) (a : DWord) : (s.afterLoad n a).bankA = s.bankA := by
  unfold State.afterLoad; split <;> rfl
@[simp] theorem afterLoad_bankB (n : Width) (a : DWord) : (s.afterLoad n a).bankB = s.bankB := by
  unfold State.afterLoad; split <;> rfl
@[simp] theorem afterLoad_high (n : Width) (a : DWord) : (s.afterLoad n a).high = s.high := by
  unfold State.afterLoad; split <;> rfl
@[simp] theorem afterLoad_pc (n : Width) (a : DWord) : (s.afterLoad n a).pc = s.pc := by
  unfold State.afterLoad; split <;> rfl
@[simp] theorem afterLoad_sr (n : Width) (a : DWord) : (s.afterLoad n a).sr = s.sr := by
  unfold State.afterLoad; split <;> rfl
@[simp] theorem afterLoad_gbr (n : Width) (a : DWord) : (s.afterLoad n a).gbr = s.gbr := by
  unfold State.afterLoad; split <;> rfl
@[simp] theorem afterLoad_vbr (n : Width) (a : DWord) : (s.afterLoad n a).vbr = s.vbr := by
  unfold State.afterLoad; split <;> rfl
@[simp] theorem afterLoad_ssr (n : Width) (a : DWord) : (s.afterLoad n a).ssr = s.ssr := by
  unfold State.afterLoad; split <;> rfl
@[simp] theorem afterLoad_spc (n : Width) (a : DWord) : (s.afterLoad n a).spc = s.spc := by
  unfold State.afterLoad; split <;> rfl
@[simp] theorem afterLoad_sgr (n : Width) (a : DWord) : (s.afterLoad n a).sgr = s.sgr := by
  unfold State.afterLoad; split <;> rfl
@[simp] theorem afterLoad_dbr (n : Width) (a : DWord) : (s.afterLoad n a).dbr = s.dbr := by
  unfold State.afterLoad; split <;> rfl
@[simp] theorem afterLoad_mach (n : Width) (a : DWord) : (s.afterLoad n a).mach = s.mach := by
  unfold State.afterLoad; split <;> rfl
@[simp] theorem afterLoad_macl (n : Width) (a : DWord) : (s.afterLoad n a).macl = s.macl := by
  unfold State.afterLoad; split <;> rfl
@[simp] theorem afterLoad_pr (n : Width) (a : DWord) : (s.afterLoad n a).pr = s.pr := by
  unfold State.afterLoad; split <;> rfl
@[simp] theorem afterLoad_fpul (n : Width) (a : DWord) : (s.afterLoad n a).fpul = s.fpul := by
  unfold State.afterLoad; split <;> rfl
@[simp] theorem afterLoad_fpscr (n : Width) (a : DWord) : (s.afterLoad n a).fpscr = s.fpscr := by
  unfold State.afterLoad; split <;> rfl
@[simp] theorem afterLoad_delayTarget (n : Width) (a : DWord) : (s.afterLoad n a).delayTarget = s.delayTarget := by
  unfold State.afterLoad; split <;> rfl
@[simp] theorem afterLoad_sleeping (n : Width) (a : DWord) : (s.afterLoad n a).sleeping = s.sleeping := by
  unfold State.afterLoad; split <;> rfl
@[simp] theorem afterLoad_lastCause (n : Width) (a : DWord) : (s.afterLoad n a).lastCause = s.lastCause := by
  unfold State.afterLoad; split <;> rfl
@[simp] theorem afterLoad_icacheStale (n : Width) (a : DWord) : (s.afterLoad n a).icacheStale = s.icacheStale := by
  unfold State.afterLoad; split <;> rfl
@[simp] theorem afterLoad_mem (n : Width) (a : DWord) : (s.afterLoad n a).mem = s.mem := by
  unfold State.afterLoad; split <;> rfl
@[simp] theorem afterLoad_irqs (n : Width) (a : DWord) : (s.afterLoad n a).irqs = s.irqs := by
  unfold State.afterLoad; split <;> rfl
@[simp] theorem afterLoad_cfg (n : Width) (a : DWord) : (s.afterLoad n a).cfg = s.cfg := by
  unfold State.afterLoad; split <;> rfl

/-! `State.markStale` -/

@[simp] theorem markStale_bankA (n : Width) (a : DWord) : (s.markStale n a).bankA = s.bankA := rfl
@[simp] theorem markStale_bankB (n : Width) (a : DWord) : (s.markStale n a).bankB = s.bankB := rfl
@[simp] theorem markStale_high (n : Width) (a : DWord) : (s.markStale n a).high = s.high := rfl
@[simp] theorem markStale_pc (n : Width) (a : DWord) : (s.markStale n a).pc = s.pc := rfl
@[simp] theorem markStale_sr (n : Width) (a : DWord) : (s.markStale n a).sr = s.sr := rfl
@[simp] theorem markStale_gbr (n : Width) (a : DWord) : (s.markStale n a).gbr = s.gbr := rfl
@[simp] theorem markStale_vbr (n : Width) (a : DWord) : (s.markStale n a).vbr = s.vbr := rfl
@[simp] theorem markStale_ssr (n : Width) (a : DWord) : (s.markStale n a).ssr = s.ssr := rfl
@[simp] theorem markStale_spc (n : Width) (a : DWord) : (s.markStale n a).spc = s.spc := rfl
@[simp] theorem markStale_sgr (n : Width) (a : DWord) : (s.markStale n a).sgr = s.sgr := rfl
@[simp] theorem markStale_dbr (n : Width) (a : DWord) : (s.markStale n a).dbr = s.dbr := rfl
@[simp] theorem markStale_mach (n : Width) (a : DWord) : (s.markStale n a).mach = s.mach := rfl
@[simp] theorem markStale_macl (n : Width) (a : DWord) : (s.markStale n a).macl = s.macl := rfl
@[simp] theorem markStale_pr (n : Width) (a : DWord) : (s.markStale n a).pr = s.pr := rfl
@[simp] theorem markStale_fpul (n : Width) (a : DWord) : (s.markStale n a).fpul = s.fpul := rfl
@[simp] theorem markStale_fpscr (n : Width) (a : DWord) : (s.markStale n a).fpscr = s.fpscr := rfl
@[simp] theorem markStale_delayTarget (n : Width) (a : DWord) : (s.markStale n a).delayTarget = s.delayTarget := rfl
@[simp] theorem markStale_sleeping (n : Width) (a : DWord) : (s.markStale n a).sleeping = s.sleeping := rfl
@[simp] theorem markStale_lastCause (n : Width) (a : DWord) : (s.markStale n a).lastCause = s.lastCause := rfl
@[simp] theorem markStale_mem (n : Width) (a : DWord) : (s.markStale n a).mem = s.mem := rfl
@[simp] theorem markStale_irqs (n : Width) (a : DWord) : (s.markStale n a).irqs = s.irqs := rfl
@[simp] theorem markStale_deviceInput (n : Width) (a : DWord) : (s.markStale n a).deviceInput = s.deviceInput := rfl
@[simp] theorem markStale_deviceLog (n : Width) (a : DWord) : (s.markStale n a).deviceLog = s.deviceLog := rfl
@[simp] theorem markStale_cfg (n : Width) (a : DWord) : (s.markStale n a).cfg = s.cfg := rfl

/-! `State.writeMem` -/

@[simp] theorem writeMem_bankA (n : Width) (a v : DWord) : (s.writeMem n a v).bankA = s.bankA := by
  unfold State.writeMem; split <;> simp
@[simp] theorem writeMem_bankB (n : Width) (a v : DWord) : (s.writeMem n a v).bankB = s.bankB := by
  unfold State.writeMem; split <;> simp
@[simp] theorem writeMem_high (n : Width) (a v : DWord) : (s.writeMem n a v).high = s.high := by
  unfold State.writeMem; split <;> simp
@[simp] theorem writeMem_pc (n : Width) (a v : DWord) : (s.writeMem n a v).pc = s.pc := by
  unfold State.writeMem; split <;> simp
@[simp] theorem writeMem_sr (n : Width) (a v : DWord) : (s.writeMem n a v).sr = s.sr := by
  unfold State.writeMem; split <;> simp
@[simp] theorem writeMem_gbr (n : Width) (a v : DWord) : (s.writeMem n a v).gbr = s.gbr := by
  unfold State.writeMem; split <;> simp
@[simp] theorem writeMem_vbr (n : Width) (a v : DWord) : (s.writeMem n a v).vbr = s.vbr := by
  unfold State.writeMem; split <;> simp
@[simp] theorem writeMem_ssr (n : Width) (a v : DWord) : (s.writeMem n a v).ssr = s.ssr := by
  unfold State.writeMem; split <;> simp
@[simp] theorem writeMem_spc (n : Width) (a v : DWord) : (s.writeMem n a v).spc = s.spc := by
  unfold State.writeMem; split <;> simp
@[simp] theorem writeMem_sgr (n : Width) (a v : DWord) : (s.writeMem n a v).sgr = s.sgr := by
  unfold State.writeMem; split <;> simp
@[simp] theorem writeMem_dbr (n : Width) (a v : DWord) : (s.writeMem n a v).dbr = s.dbr := by
  unfold State.writeMem; split <;> simp
@[simp] theorem writeMem_mach (n : Width) (a v : DWord) : (s.writeMem n a v).mach = s.mach := by
  unfold State.writeMem; split <;> simp
@[simp] theorem writeMem_macl (n : Width) (a v : DWord) : (s.writeMem n a v).macl = s.macl := by
  unfold State.writeMem; split <;> simp
@[simp] theorem writeMem_pr (n : Width) (a v : DWord) : (s.writeMem n a v).pr = s.pr := by
  unfold State.writeMem; split <;> simp
@[simp] theorem writeMem_fpul (n : Width) (a v : DWord) : (s.writeMem n a v).fpul = s.fpul := by
  unfold State.writeMem; split <;> simp
@[simp] theorem writeMem_fpscr (n : Width) (a v : DWord) : (s.writeMem n a v).fpscr = s.fpscr := by
  unfold State.writeMem; split <;> simp
@[simp] theorem writeMem_delayTarget (n : Width) (a v : DWord) : (s.writeMem n a v).delayTarget = s.delayTarget := by
  unfold State.writeMem; split <;> simp
@[simp] theorem writeMem_sleeping (n : Width) (a v : DWord) : (s.writeMem n a v).sleeping = s.sleeping := by
  unfold State.writeMem; split <;> simp
@[simp] theorem writeMem_lastCause (n : Width) (a v : DWord) : (s.writeMem n a v).lastCause = s.lastCause := by
  unfold State.writeMem; split <;> simp
@[simp] theorem writeMem_irqs (n : Width) (a v : DWord) : (s.writeMem n a v).irqs = s.irqs := by
  unfold State.writeMem; split <;> simp
@[simp] theorem writeMem_deviceInput (n : Width) (a v : DWord) : (s.writeMem n a v).deviceInput = s.deviceInput := by
  unfold State.writeMem; split <;> simp
@[simp] theorem writeMem_cfg (n : Width) (a v : DWord) : (s.writeMem n a v).cfg = s.cfg := by
  unfold State.writeMem; split <;> simp

/-! `State.invalidateLine` -/

@[simp] theorem invalidateLine_bankA (a : DWord) : (s.invalidateLine a).bankA = s.bankA := rfl
@[simp] theorem invalidateLine_bankB (a : DWord) : (s.invalidateLine a).bankB = s.bankB := rfl
@[simp] theorem invalidateLine_high (a : DWord) : (s.invalidateLine a).high = s.high := rfl
@[simp] theorem invalidateLine_pc (a : DWord) : (s.invalidateLine a).pc = s.pc := rfl
@[simp] theorem invalidateLine_sr (a : DWord) : (s.invalidateLine a).sr = s.sr := rfl
@[simp] theorem invalidateLine_gbr (a : DWord) : (s.invalidateLine a).gbr = s.gbr := rfl
@[simp] theorem invalidateLine_vbr (a : DWord) : (s.invalidateLine a).vbr = s.vbr := rfl
@[simp] theorem invalidateLine_ssr (a : DWord) : (s.invalidateLine a).ssr = s.ssr := rfl
@[simp] theorem invalidateLine_spc (a : DWord) : (s.invalidateLine a).spc = s.spc := rfl
@[simp] theorem invalidateLine_sgr (a : DWord) : (s.invalidateLine a).sgr = s.sgr := rfl
@[simp] theorem invalidateLine_dbr (a : DWord) : (s.invalidateLine a).dbr = s.dbr := rfl
@[simp] theorem invalidateLine_mach (a : DWord) : (s.invalidateLine a).mach = s.mach := rfl
@[simp] theorem invalidateLine_macl (a : DWord) : (s.invalidateLine a).macl = s.macl := rfl
@[simp] theorem invalidateLine_pr (a : DWord) : (s.invalidateLine a).pr = s.pr := rfl
@[simp] theorem invalidateLine_fpul (a : DWord) : (s.invalidateLine a).fpul = s.fpul := rfl
@[simp] theorem invalidateLine_fpscr (a : DWord) : (s.invalidateLine a).fpscr = s.fpscr := rfl
@[simp] theorem invalidateLine_delayTarget (a : DWord) : (s.invalidateLine a).delayTarget = s.delayTarget := rfl
@[simp] theorem invalidateLine_sleeping (a : DWord) : (s.invalidateLine a).sleeping = s.sleeping := rfl
@[simp] theorem invalidateLine_lastCause (a : DWord) : (s.invalidateLine a).lastCause = s.lastCause := rfl
@[simp] theorem invalidateLine_mem (a : DWord) : (s.invalidateLine a).mem = s.mem := rfl
@[simp] theorem invalidateLine_irqs (a : DWord) : (s.invalidateLine a).irqs = s.irqs := rfl
@[simp] theorem invalidateLine_deviceInput (a : DWord) : (s.invalidateLine a).deviceInput = s.deviceInput := rfl
@[simp] theorem invalidateLine_deviceLog (a : DWord) : (s.invalidateLine a).deviceLog = s.deviceLog := rfl
@[simp] theorem invalidateLine_cfg (a : DWord) : (s.invalidateLine a).cfg = s.cfg := rfl

/-! `State.advance` -/

@[simp] theorem advance_bankA : (s.advance).bankA = s.bankA := by unfold State.advance; split <;> rfl
@[simp] theorem advance_bankB : (s.advance).bankB = s.bankB := by unfold State.advance; split <;> rfl
@[simp] theorem advance_high : (s.advance).high = s.high := by unfold State.advance; split <;> rfl
@[simp] theorem advance_pc : (s.advance).pc = s.delayTarget.getD (s.pc + 2) := by unfold State.advance; split <;> simp_all
@[simp] theorem advance_sr : (s.advance).sr = s.sr := by unfold State.advance; split <;> rfl
@[simp] theorem advance_gbr : (s.advance).gbr = s.gbr := by unfold State.advance; split <;> rfl
@[simp] theorem advance_vbr : (s.advance).vbr = s.vbr := by unfold State.advance; split <;> rfl
@[simp] theorem advance_ssr : (s.advance).ssr = s.ssr := by unfold State.advance; split <;> rfl
@[simp] theorem advance_spc : (s.advance).spc = s.spc := by unfold State.advance; split <;> rfl
@[simp] theorem advance_sgr : (s.advance).sgr = s.sgr := by unfold State.advance; split <;> rfl
@[simp] theorem advance_dbr : (s.advance).dbr = s.dbr := by unfold State.advance; split <;> rfl
@[simp] theorem advance_mach : (s.advance).mach = s.mach := by unfold State.advance; split <;> rfl
@[simp] theorem advance_macl : (s.advance).macl = s.macl := by unfold State.advance; split <;> rfl
@[simp] theorem advance_pr : (s.advance).pr = s.pr := by unfold State.advance; split <;> rfl
@[simp] theorem advance_fpul : (s.advance).fpul = s.fpul := by unfold State.advance; split <;> rfl
@[simp] theorem advance_fpscr : (s.advance).fpscr = s.fpscr := by unfold State.advance; split <;> rfl
@[simp] theorem advance_delayTarget : (s.advance).delayTarget = none := by unfold State.advance; split <;> simp_all
@[simp] theorem advance_sleeping : (s.advance).sleeping = s.sleeping := by unfold State.advance; split <;> rfl
@[simp] theorem advance_lastCause : (s.advance).lastCause = s.lastCause := by unfold State.advance; split <;> rfl
@[simp] theorem advance_icacheStale : (s.advance).icacheStale = s.icacheStale := by unfold State.advance; split <;> rfl
@[simp] theorem advance_mem : (s.advance).mem = s.mem := by unfold State.advance; split <;> rfl
@[simp] theorem advance_irqs : (s.advance).irqs = s.irqs := by unfold State.advance; split <;> rfl
@[simp] theorem advance_deviceInput : (s.advance).deviceInput = s.deviceInput := by unfold State.advance; split <;> rfl
@[simp] theorem advance_deviceLog : (s.advance).deviceLog = s.deviceLog := by unfold State.advance; split <;> rfl
@[simp] theorem advance_cfg : (s.advance).cfg = s.cfg := by unfold State.advance; split <;> rfl

/-! `State.jump` -/

@[simp] theorem jump_bankA (t : DWord) : (s.jump t).bankA = s.bankA := rfl
@[simp] theorem jump_bankB (t : DWord) : (s.jump t).bankB = s.bankB := rfl
@[simp] theorem jump_high (t : DWord) : (s.jump t).high = s.high := rfl
@[simp] theorem jump_pc (t : DWord) : (s.jump t).pc = t := rfl
@[simp] theorem jump_sr (t : DWord) : (s.jump t).sr = s.sr := rfl
@[simp] theorem jump_gbr (t : DWord) : (s.jump t).gbr = s.gbr := rfl
@[simp] theorem jump_vbr (t : DWord) : (s.jump t).vbr = s.vbr := rfl
@[simp] theorem jump_ssr (t : DWord) : (s.jump t).ssr = s.ssr := rfl
@[simp] theorem jump_spc (t : DWord) : (s.jump t).spc = s.spc := rfl
@[simp] theorem jump_sgr (t : DWord) : (s.jump t).sgr = s.sgr := rfl
@[simp] theorem jump_dbr (t : DWord) : (s.jump t).dbr = s.dbr := rfl
@[simp] theorem jump_mach (t : DWord) : (s.jump t).mach = s.mach := rfl
@[simp] theorem jump_macl (t : DWord) : (s.jump t).macl = s.macl := rfl
@[simp] theorem jump_pr (t : DWord) : (s.jump t).pr = s.pr := rfl
@[simp] theorem jump_fpul (t : DWord) : (s.jump t).fpul = s.fpul := rfl
@[simp] theorem jump_fpscr (t : DWord) : (s.jump t).fpscr = s.fpscr := rfl
@[simp] theorem jump_delayTarget (t : DWord) : (s.jump t).delayTarget = s.delayTarget := rfl
@[simp] theorem jump_sleeping (t : DWord) : (s.jump t).sleeping = s.sleeping := rfl
@[simp] theorem jump_lastCause (t : DWord) : (s.jump t).lastCause = s.lastCause := rfl
@[simp] theorem jump_icacheStale (t : DWord) : (s.jump t).icacheStale = s.icacheStale := rfl
@[simp] theorem jump_mem (t : DWord) : (s.jump t).mem = s.mem := rfl
@[simp] theorem jump_irqs (t : DWord) : (s.jump t).irqs = s.irqs := rfl
@[simp] theorem jump_deviceInput (t : DWord) : (s.jump t).deviceInput = s.deviceInput := rfl
@[simp] theorem jump_deviceLog (t : DWord) : (s.jump t).deviceLog = s.deviceLog := rfl
@[simp] theorem jump_cfg (t : DWord) : (s.jump t).cfg = s.cfg := rfl

/-! `State.delayedBranch` -/

@[simp] theorem delayedBranch_bankA (t : DWord) : (s.delayedBranch t).bankA = s.bankA := rfl
@[simp] theorem delayedBranch_bankB (t : DWord) : (s.delayedBranch t).bankB = s.bankB := rfl
@[simp] theorem delayedBranch_high (t : DWord) : (s.delayedBranch t).high = s.high := rfl
@[simp] theorem delayedBranch_pc (t : DWord) : (s.delayedBranch t).pc = s.pc + 2 := rfl
@[simp] theorem delayedBranch_sr (t : DWord) : (s.delayedBranch t).sr = s.sr := rfl
@[simp] theorem delayedBranch_gbr (t : DWord) : (s.delayedBranch t).gbr = s.gbr := rfl
@[simp] theorem delayedBranch_vbr (t : DWord) : (s.delayedBranch t).vbr = s.vbr := rfl
@[simp] theorem delayedBranch_ssr (t : DWord) : (s.delayedBranch t).ssr = s.ssr := rfl
@[simp] theorem delayedBranch_spc (t : DWord) : (s.delayedBranch t).spc = s.spc := rfl
@[simp] theorem delayedBranch_sgr (t : DWord) : (s.delayedBranch t).sgr = s.sgr := rfl
@[simp] theorem delayedBranch_dbr (t : DWord) : (s.delayedBranch t).dbr = s.dbr := rfl
@[simp] theorem delayedBranch_mach (t : DWord) : (s.delayedBranch t).mach = s.mach := rfl
@[simp] theorem delayedBranch_macl (t : DWord) : (s.delayedBranch t).macl = s.macl := rfl
@[simp] theorem delayedBranch_pr (t : DWord) : (s.delayedBranch t).pr = s.pr := rfl
@[simp] theorem delayedBranch_fpul (t : DWord) : (s.delayedBranch t).fpul = s.fpul := rfl
@[simp] theorem delayedBranch_fpscr (t : DWord) : (s.delayedBranch t).fpscr = s.fpscr := rfl
@[simp] theorem delayedBranch_delayTarget (t : DWord) : (s.delayedBranch t).delayTarget = some t := rfl
@[simp] theorem delayedBranch_sleeping (t : DWord) : (s.delayedBranch t).sleeping = s.sleeping := rfl
@[simp] theorem delayedBranch_lastCause (t : DWord) : (s.delayedBranch t).lastCause = s.lastCause := rfl
@[simp] theorem delayedBranch_icacheStale (t : DWord) : (s.delayedBranch t).icacheStale = s.icacheStale := rfl
@[simp] theorem delayedBranch_mem (t : DWord) : (s.delayedBranch t).mem = s.mem := rfl
@[simp] theorem delayedBranch_irqs (t : DWord) : (s.delayedBranch t).irqs = s.irqs := rfl
@[simp] theorem delayedBranch_deviceInput (t : DWord) : (s.delayedBranch t).deviceInput = s.deviceInput := rfl
@[simp] theorem delayedBranch_deviceLog (t : DWord) : (s.delayedBranch t).deviceLog = s.deviceLog := rfl
@[simp] theorem delayedBranch_cfg (t : DWord) : (s.delayedBranch t).cfg = s.cfg := rfl

/-! `State.consumeIrq` -/

@[simp] theorem consumeIrq_bankA : (s.consumeIrq).bankA = s.bankA := rfl
@[simp] theorem consumeIrq_bankB : (s.consumeIrq).bankB = s.bankB := rfl
@[simp] theorem consumeIrq_high : (s.consumeIrq).high = s.high := rfl
@[simp] theorem consumeIrq_pc : (s.consumeIrq).pc = s.pc := rfl
@[simp] theorem consumeIrq_sr : (s.consumeIrq).sr = s.sr := rfl
@[simp] theorem consumeIrq_gbr : (s.consumeIrq).gbr = s.gbr := rfl
@[simp] theorem consumeIrq_vbr : (s.consumeIrq).vbr = s.vbr := rfl
@[simp] theorem consumeIrq_ssr : (s.consumeIrq).ssr = s.ssr := rfl
@[simp] theorem consumeIrq_spc : (s.consumeIrq).spc = s.spc := rfl
@[simp] theorem consumeIrq_sgr : (s.consumeIrq).sgr = s.sgr := rfl
@[simp] theorem consumeIrq_dbr : (s.consumeIrq).dbr = s.dbr := rfl
@[simp] theorem consumeIrq_mach : (s.consumeIrq).mach = s.mach := rfl
@[simp] theorem consumeIrq_macl : (s.consumeIrq).macl = s.macl := rfl
@[simp] theorem consumeIrq_pr : (s.consumeIrq).pr = s.pr := rfl
@[simp] theorem consumeIrq_fpul : (s.consumeIrq).fpul = s.fpul := rfl
@[simp] theorem consumeIrq_fpscr : (s.consumeIrq).fpscr = s.fpscr := rfl
@[simp] theorem consumeIrq_delayTarget : (s.consumeIrq).delayTarget = s.delayTarget := rfl
@[simp] theorem consumeIrq_sleeping : (s.consumeIrq).sleeping = s.sleeping := rfl
@[simp] theorem consumeIrq_lastCause : (s.consumeIrq).lastCause = s.lastCause := rfl
@[simp] theorem consumeIrq_icacheStale : (s.consumeIrq).icacheStale = s.icacheStale := rfl
@[simp] theorem consumeIrq_mem : (s.consumeIrq).mem = s.mem := rfl
@[simp] theorem consumeIrq_irqs : (s.consumeIrq).irqs = s.irqs.tail := rfl
@[simp] theorem consumeIrq_deviceInput : (s.consumeIrq).deviceInput = s.deviceInput := rfl
@[simp] theorem consumeIrq_deviceLog : (s.consumeIrq).deviceLog = s.deviceLog := rfl
@[simp] theorem consumeIrq_cfg : (s.consumeIrq).cfg = s.cfg := rfl

/-! `State.enterTrap` -/

@[simp] theorem enterTrap_bankA (c : Cause) (saved off : DWord) : (s.enterTrap c saved off).bankA = s.bankA := rfl
@[simp] theorem enterTrap_bankB (c : Cause) (saved off : DWord) : (s.enterTrap c saved off).bankB = s.bankB := rfl
@[simp] theorem enterTrap_high (c : Cause) (saved off : DWord) : (s.enterTrap c saved off).high = s.high := rfl
@[simp] theorem enterTrap_pc (c : Cause) (saved off : DWord) : (s.enterTrap c saved off).pc = s.vbr + off := rfl
@[simp] theorem enterTrap_sr (c : Cause) (saved off : DWord) : (s.enterTrap c saved off).sr = trapSr s.sr := rfl
@[simp] theorem enterTrap_gbr (c : Cause) (saved off : DWord) : (s.enterTrap c saved off).gbr = s.gbr := rfl
@[simp] theorem enterTrap_vbr (c : Cause) (saved off : DWord) : (s.enterTrap c saved off).vbr = s.vbr := rfl
@[simp] theorem enterTrap_ssr (c : Cause) (saved off : DWord) : (s.enterTrap c saved off).ssr = s.sr := rfl
@[simp] theorem enterTrap_spc (c : Cause) (saved off : DWord) : (s.enterTrap c saved off).spc = saved := rfl
@[simp] theorem enterTrap_sgr (c : Cause) (saved off : DWord) : (s.enterTrap c saved off).sgr = s.reg 15 := rfl
@[simp] theorem enterTrap_dbr (c : Cause) (saved off : DWord) : (s.enterTrap c saved off).dbr = s.dbr := rfl
@[simp] theorem enterTrap_mach (c : Cause) (saved off : DWord) : (s.enterTrap c saved off).mach = s.mach := rfl
@[simp] theorem enterTrap_macl (c : Cause) (saved off : DWord) : (s.enterTrap c saved off).macl = s.macl := rfl
@[simp] theorem enterTrap_pr (c : Cause) (saved off : DWord) : (s.enterTrap c saved off).pr = s.pr := rfl
@[simp] theorem enterTrap_fpul (c : Cause) (saved off : DWord) : (s.enterTrap c saved off).fpul = s.fpul := rfl
@[simp] theorem enterTrap_fpscr (c : Cause) (saved off : DWord) : (s.enterTrap c saved off).fpscr = s.fpscr := rfl
@[simp] theorem enterTrap_delayTarget (c : Cause) (saved off : DWord) : (s.enterTrap c saved off).delayTarget = none := rfl
@[simp] theorem enterTrap_sleeping (c : Cause) (saved off : DWord) : (s.enterTrap c saved off).sleeping = false := rfl
@[simp] theorem enterTrap_lastCause (c : Cause) (saved off : DWord) : (s.enterTrap c saved off).lastCause = some c := rfl
@[simp] theorem enterTrap_icacheStale (c : Cause) (saved off : DWord) : (s.enterTrap c saved off).icacheStale = s.icacheStale := rfl
@[simp] theorem enterTrap_mem (c : Cause) (saved off : DWord) : (s.enterTrap c saved off).mem = s.mem := rfl
@[simp] theorem enterTrap_irqs (c : Cause) (saved off : DWord) : (s.enterTrap c saved off).irqs = s.irqs := rfl
@[simp] theorem enterTrap_deviceInput (c : Cause) (saved off : DWord) : (s.enterTrap c saved off).deviceInput = s.deviceInput := rfl
@[simp] theorem enterTrap_deviceLog (c : Cause) (saved off : DWord) : (s.enterTrap c saved off).deviceLog = s.deviceLog := rfl
@[simp] theorem enterTrap_cfg (c : Cause) (saved off : DWord) : (s.enterTrap c saved off).cfg = s.cfg := rfl

/-! `State.returnFromException` -/

@[simp] theorem returnFromException_bankA : (s.returnFromException).bankA = s.bankA := rfl
@[simp] theorem returnFromException_bankB : (s.returnFromException).bankB = s.bankB := rfl
@[simp] theorem returnFromException_high : (s.returnFromException).high = s.high := rfl
@[simp] theorem returnFromException_pc : (s.returnFromException).pc = s.pc + 2 := rfl
@[simp] theorem returnFromException_sr : (s.returnFromException).sr = s.ssr &&& s.cfg.srWriteMask := rfl
@[simp] theorem returnFromException_gbr : (s.returnFromException).gbr = s.gbr := rfl
@[simp] theorem returnFromException_vbr : (s.returnFromException).vbr = s.vbr := rfl
@[simp] theorem returnFromException_ssr : (s.returnFromException).ssr = s.ssr := rfl
@[simp] theorem returnFromException_spc : (s.returnFromException).spc = s.spc := rfl
@[simp] theorem returnFromException_sgr : (s.returnFromException).sgr = s.sgr := rfl
@[simp] theorem returnFromException_dbr : (s.returnFromException).dbr = s.dbr := rfl
@[simp] theorem returnFromException_mach : (s.returnFromException).mach = s.mach := rfl
@[simp] theorem returnFromException_macl : (s.returnFromException).macl = s.macl := rfl
@[simp] theorem returnFromException_pr : (s.returnFromException).pr = s.pr := rfl
@[simp] theorem returnFromException_fpul : (s.returnFromException).fpul = s.fpul := rfl
@[simp] theorem returnFromException_fpscr : (s.returnFromException).fpscr = s.fpscr := rfl
@[simp] theorem returnFromException_delayTarget : (s.returnFromException).delayTarget = some s.spc := rfl
@[simp] theorem returnFromException_sleeping : (s.returnFromException).sleeping = s.sleeping := rfl
@[simp] theorem returnFromException_lastCause : (s.returnFromException).lastCause = s.lastCause := rfl
@[simp] theorem returnFromException_icacheStale : (s.returnFromException).icacheStale = s.icacheStale := rfl
@[simp] theorem returnFromException_mem : (s.returnFromException).mem = s.mem := rfl
@[simp] theorem returnFromException_irqs : (s.returnFromException).irqs = s.irqs := rfl
@[simp] theorem returnFromException_deviceInput : (s.returnFromException).deviceInput = s.deviceInput := rfl
@[simp] theorem returnFromException_deviceLog : (s.returnFromException).deviceLog = s.deviceLog := rfl
@[simp] theorem returnFromException_cfg : (s.returnFromException).cfg = s.cfg := rfl

/-! `State.writePhys` -/

@[simp] theorem writePhys_pc (p : PhysReg) (v : DWord) : (s.writePhys p v).pc = s.pc := by cases p <;> rfl
@[simp] theorem writePhys_sr (p : PhysReg) (v : DWord) : (s.writePhys p v).sr = s.sr := by cases p <;> rfl
@[simp] theorem writePhys_gbr (p : PhysReg) (v : DWord) : (s.writePhys p v).gbr = s.gbr := by cases p <;> rfl
@[simp] theorem writePhys_vbr (p : PhysReg) (v : DWord) : (s.writePhys p v).vbr = s.vbr := by cases p <;> rfl
@[simp] theorem writePhys_ssr (p : PhysReg) (v : DWord) : (s.writePhys p v).ssr = s.ssr := by cases p <;> rfl
@[simp] theorem writePhys_spc (p : PhysReg) (v : DWord) : (s.writePhys p v).spc = s.spc := by cases p <;> rfl
@[simp] theorem writePhys_sgr (p : PhysReg) (v : DWord) : (s.writePhys p v).sgr = s.sgr := by cases p <;> rfl
@[simp] theorem writePhys_dbr (p : PhysReg) (v : DWord) : (s.writePhys p v).dbr = s.dbr := by cases p <;> rfl
@[simp] theorem writePhys_mach (p : PhysReg) (v : DWord) : (s.writePhys p v).mach = s.mach := by cases p <;> rfl
@[simp] theorem writePhys_macl (p : PhysReg) (v : DWord) : (s.writePhys p v).macl = s.macl := by cases p <;> rfl
@[simp] theorem writePhys_pr (p : PhysReg) (v : DWord) : (s.writePhys p v).pr = s.pr := by cases p <;> rfl
@[simp] theorem writePhys_fpul (p : PhysReg) (v : DWord) : (s.writePhys p v).fpul = s.fpul := by cases p <;> rfl
@[simp] theorem writePhys_fpscr (p : PhysReg) (v : DWord) : (s.writePhys p v).fpscr = s.fpscr := by cases p <;> rfl
@[simp] theorem writePhys_delayTarget (p : PhysReg) (v : DWord) : (s.writePhys p v).delayTarget = s.delayTarget := by cases p <;> rfl
@[simp] theorem writePhys_sleeping (p : PhysReg) (v : DWord) : (s.writePhys p v).sleeping = s.sleeping := by cases p <;> rfl
@[simp] theorem writePhys_lastCause (p : PhysReg) (v : DWord) : (s.writePhys p v).lastCause = s.lastCause := by cases p <;> rfl
@[simp] theorem writePhys_icacheStale (p : PhysReg) (v : DWord) : (s.writePhys p v).icacheStale = s.icacheStale := by cases p <;> rfl
@[simp] theorem writePhys_mem (p : PhysReg) (v : DWord) : (s.writePhys p v).mem = s.mem := by cases p <;> rfl
@[simp] theorem writePhys_irqs (p : PhysReg) (v : DWord) : (s.writePhys p v).irqs = s.irqs := by cases p <;> rfl
@[simp] theorem writePhys_deviceInput (p : PhysReg) (v : DWord) : (s.writePhys p v).deviceInput = s.deviceInput := by cases p <;> rfl
@[simp] theorem writePhys_deviceLog (p : PhysReg) (v : DWord) : (s.writePhys p v).deviceLog = s.deviceLog := by cases p <;> rfl
@[simp] theorem writePhys_cfg (p : PhysReg) (v : DWord) : (s.writePhys p v).cfg = s.cfg := by cases p <;> rfl

/-! `State.setReg` -/

@[simp] theorem setReg_pc (r : Reg) (v : DWord) : (s.setReg r v).pc = s.pc := writePhys_pc s _ v
@[simp] theorem setReg_sr (r : Reg) (v : DWord) : (s.setReg r v).sr = s.sr := writePhys_sr s _ v
@[simp] theorem setReg_gbr (r : Reg) (v : DWord) : (s.setReg r v).gbr = s.gbr := writePhys_gbr s _ v
@[simp] theorem setReg_vbr (r : Reg) (v : DWord) : (s.setReg r v).vbr = s.vbr := writePhys_vbr s _ v
@[simp] theorem setReg_ssr (r : Reg) (v : DWord) : (s.setReg r v).ssr = s.ssr := writePhys_ssr s _ v
@[simp] theorem setReg_spc (r : Reg) (v : DWord) : (s.setReg r v).spc = s.spc := writePhys_spc s _ v
@[simp] theorem setReg_sgr (r : Reg) (v : DWord) : (s.setReg r v).sgr = s.sgr := writePhys_sgr s _ v
@[simp] theorem setReg_dbr (r : Reg) (v : DWord) : (s.setReg r v).dbr = s.dbr := writePhys_dbr s _ v
@[simp] theorem setReg_mach (r : Reg) (v : DWord) : (s.setReg r v).mach = s.mach := writePhys_mach s _ v
@[simp] theorem setReg_macl (r : Reg) (v : DWord) : (s.setReg r v).macl = s.macl := writePhys_macl s _ v
@[simp] theorem setReg_pr (r : Reg) (v : DWord) : (s.setReg r v).pr = s.pr := writePhys_pr s _ v
@[simp] theorem setReg_fpul (r : Reg) (v : DWord) : (s.setReg r v).fpul = s.fpul := writePhys_fpul s _ v
@[simp] theorem setReg_fpscr (r : Reg) (v : DWord) : (s.setReg r v).fpscr = s.fpscr := writePhys_fpscr s _ v
@[simp] theorem setReg_delayTarget (r : Reg) (v : DWord) : (s.setReg r v).delayTarget = s.delayTarget := writePhys_delayTarget s _ v
@[simp] theorem setReg_sleeping (r : Reg) (v : DWord) : (s.setReg r v).sleeping = s.sleeping := writePhys_sleeping s _ v
@[simp] theorem setReg_lastCause (r : Reg) (v : DWord) : (s.setReg r v).lastCause = s.lastCause := writePhys_lastCause s _ v
@[simp] theorem setReg_icacheStale (r : Reg) (v : DWord) : (s.setReg r v).icacheStale = s.icacheStale := writePhys_icacheStale s _ v
@[simp] theorem setReg_mem (r : Reg) (v : DWord) : (s.setReg r v).mem = s.mem := writePhys_mem s _ v
@[simp] theorem setReg_irqs (r : Reg) (v : DWord) : (s.setReg r v).irqs = s.irqs := writePhys_irqs s _ v
@[simp] theorem setReg_deviceInput (r : Reg) (v : DWord) : (s.setReg r v).deviceInput = s.deviceInput := writePhys_deviceInput s _ v
@[simp] theorem setReg_deviceLog (r : Reg) (v : DWord) : (s.setReg r v).deviceLog = s.deviceLog := writePhys_deviceLog s _ v
@[simp] theorem setReg_cfg (r : Reg) (v : DWord) : (s.setReg r v).cfg = s.cfg := writePhys_cfg s _ v

/-! `State.writeCtrl` -/

@[simp] theorem writeCtrl_pc (i : CtrlIdx) (v : DWord) : (s.writeCtrl i v).pc = s.pc := by unfold State.writeCtrl; split <;> simp
@[simp] theorem writeCtrl_sgr (i : CtrlIdx) (v : DWord) : (s.writeCtrl i v).sgr = s.sgr := by unfold State.writeCtrl; split <;> simp
@[simp] theorem writeCtrl_dbr (i : CtrlIdx) (v : DWord) : (s.writeCtrl i v).dbr = s.dbr := by unfold State.writeCtrl; split <;> simp
@[simp] theorem writeCtrl_mach (i : CtrlIdx) (v : DWord) : (s.writeCtrl i v).mach = s.mach := by unfold State.writeCtrl; split <;> simp
@[simp] theorem writeCtrl_macl (i : CtrlIdx) (v : DWord) : (s.writeCtrl i v).macl = s.macl := by unfold State.writeCtrl; split <;> simp
@[simp] theorem writeCtrl_pr (i : CtrlIdx) (v : DWord) : (s.writeCtrl i v).pr = s.pr := by unfold State.writeCtrl; split <;> simp
@[simp] theorem writeCtrl_fpul (i : CtrlIdx) (v : DWord) : (s.writeCtrl i v).fpul = s.fpul := by unfold State.writeCtrl; split <;> simp
@[simp] theorem writeCtrl_fpscr (i : CtrlIdx) (v : DWord) : (s.writeCtrl i v).fpscr = s.fpscr := by unfold State.writeCtrl; split <;> simp
@[simp] theorem writeCtrl_delayTarget (i : CtrlIdx) (v : DWord) : (s.writeCtrl i v).delayTarget = s.delayTarget := by unfold State.writeCtrl; split <;> simp
@[simp] theorem writeCtrl_sleeping (i : CtrlIdx) (v : DWord) : (s.writeCtrl i v).sleeping = s.sleeping := by unfold State.writeCtrl; split <;> simp
@[simp] theorem writeCtrl_lastCause (i : CtrlIdx) (v : DWord) : (s.writeCtrl i v).lastCause = s.lastCause := by unfold State.writeCtrl; split <;> simp
@[simp] theorem writeCtrl_icacheStale (i : CtrlIdx) (v : DWord) : (s.writeCtrl i v).icacheStale = s.icacheStale := by unfold State.writeCtrl; split <;> simp
@[simp] theorem writeCtrl_mem (i : CtrlIdx) (v : DWord) : (s.writeCtrl i v).mem = s.mem := by unfold State.writeCtrl; split <;> simp
@[simp] theorem writeCtrl_irqs (i : CtrlIdx) (v : DWord) : (s.writeCtrl i v).irqs = s.irqs := by unfold State.writeCtrl; split <;> simp
@[simp] theorem writeCtrl_deviceInput (i : CtrlIdx) (v : DWord) : (s.writeCtrl i v).deviceInput = s.deviceInput := by unfold State.writeCtrl; split <;> simp
@[simp] theorem writeCtrl_deviceLog (i : CtrlIdx) (v : DWord) : (s.writeCtrl i v).deviceLog = s.deviceLog := by unfold State.writeCtrl; split <;> simp
@[simp] theorem writeCtrl_cfg (i : CtrlIdx) (v : DWord) : (s.writeCtrl i v).cfg = s.cfg := by unfold State.writeCtrl; split <;> simp

/-! `State.writeSys` -/

@[simp] theorem writeSys_bankA (i : SysIdx) (v : DWord) : (s.writeSys i v).bankA = s.bankA := by unfold State.writeSys; split <;> rfl
@[simp] theorem writeSys_bankB (i : SysIdx) (v : DWord) : (s.writeSys i v).bankB = s.bankB := by unfold State.writeSys; split <;> rfl
@[simp] theorem writeSys_high (i : SysIdx) (v : DWord) : (s.writeSys i v).high = s.high := by unfold State.writeSys; split <;> rfl
@[simp] theorem writeSys_pc (i : SysIdx) (v : DWord) : (s.writeSys i v).pc = s.pc := by unfold State.writeSys; split <;> rfl
@[simp] theorem writeSys_sr (i : SysIdx) (v : DWord) : (s.writeSys i v).sr = s.sr := by unfold State.writeSys; split <;> rfl
@[simp] theorem writeSys_gbr (i : SysIdx) (v : DWord) : (s.writeSys i v).gbr = s.gbr := by unfold State.writeSys; split <;> rfl
@[simp] theorem writeSys_vbr (i : SysIdx) (v : DWord) : (s.writeSys i v).vbr = s.vbr := by unfold State.writeSys; split <;> rfl
@[simp] theorem writeSys_ssr (i : SysIdx) (v : DWord) : (s.writeSys i v).ssr = s.ssr := by unfold State.writeSys; split <;> rfl
@[simp] theorem writeSys_spc (i : SysIdx) (v : DWord) : (s.writeSys i v).spc = s.spc := by unfold State.writeSys; split <;> rfl
@[simp] theorem writeSys_delayTarget (i : SysIdx) (v : DWord) : (s.writeSys i v).delayTarget = s.delayTarget := by unfold State.writeSys; split <;> rfl
@[simp] theorem writeSys_sleeping (i : SysIdx) (v : DWord) : (s.writeSys i v).sleeping = s.sleeping := by unfold State.writeSys; split <;> rfl
@[simp] theorem writeSys_lastCause (i : SysIdx) (v : DWord) : (s.writeSys i v).lastCause = s.lastCause := by unfold State.writeSys; split <;> rfl
@[simp] theorem writeSys_icacheStale (i : SysIdx) (v : DWord) : (s.writeSys i v).icacheStale = s.icacheStale := by unfold State.writeSys; split <;> rfl
@[simp] theorem writeSys_mem (i : SysIdx) (v : DWord) : (s.writeSys i v).mem = s.mem := by unfold State.writeSys; split <;> rfl
@[simp] theorem writeSys_irqs (i : SysIdx) (v : DWord) : (s.writeSys i v).irqs = s.irqs := by unfold State.writeSys; split <;> rfl
@[simp] theorem writeSys_deviceInput (i : SysIdx) (v : DWord) : (s.writeSys i v).deviceInput = s.deviceInput := by unfold State.writeSys; split <;> rfl
@[simp] theorem writeSys_deviceLog (i : SysIdx) (v : DWord) : (s.writeSys i v).deviceLog = s.deviceLog := by unfold State.writeSys; split <;> rfl
@[simp] theorem writeSys_cfg (i : SysIdx) (v : DWord) : (s.writeSys i v).cfg = s.cfg := by unfold State.writeSys; split <;> rfl

end Sys2Proof.Machine
end

