-- ==== Sys2Proof/Laws/Flags.lean ====
section
/-! SUPPORT. The bits of SR under each update (R32), and what the flag computations deliver. -/

namespace Sys2Proof.Machine

/-- One bit of `setBit`. -/
@[simp] theorem getElem_setBit (v : DWord) (i j : Nat) (b : Bool) (hj : j < 32) :
    (setBit v i b)[j] = if j = i then b else v[j] := by
  unfold setBit
  cases b <;> by_cases h : j = i
  · subst h; simp [BitVec.getElem_twoPow]
  · simp [BitVec.getElem_twoPow, h]
  · subst h; simp [BitVec.getElem_twoPow]
  · simp [BitVec.getElem_twoPow, h]

/-- One bit of `setBit`, any index. -/
theorem getLsbD_setBit (v : DWord) (i j : Nat) (b : Bool) (hi : i < 32) :
    (setBit v i b).getLsbD j = if j = i then b else v.getLsbD j := by
  by_cases hj : j < 32
  · simp only [BitVec.getLsbD_eq_getElem hj, getElem_setBit]
  · have : j ≠ i := by omega
    simp [this, BitVec.getLsbD_of_ge _ _ (Nat.le_of_not_lt hj)]

/-- `setBit` of a bit outside a field keeps the field. -/
theorem extractLsb'_setBit (v : DWord) (i lo n : Nat) (b : Bool) (hi : i < 32) (h : i < lo ∨ lo + n ≤ i) :
    (setBit v i b).extractLsb' lo n = v.extractLsb' lo n := by
  ext k hk
  simp only [BitVec.getElem_extractLsb', getLsbD_setBit _ _ _ _ hi]
  have : lo + k ≠ i := by omega
  simp [this]

variable (s : State)

@[simp] theorem withT_get_t (b : Bool) : (s.withT b).t = b := by simp [State.t]
@[simp] theorem withT_get_s (b : Bool) : (s.withT b).s = s.s := by simp [State.s]
@[simp] theorem withT_get_q (b : Bool) : (s.withT b).q = s.q := by simp [State.q]
@[simp] theorem withT_get_m (b : Bool) : (s.withT b).m = s.m := by simp [State.m]
@[simp] theorem withT_get_fd (b : Bool) : (s.withT b).fd = s.fd := by simp [State.fd]
@[simp] theorem withT_get_bl (b : Bool) : (s.withT b).bl = s.bl := by simp [State.bl]
@[simp] theorem withT_get_rb (b : Bool) : (s.withT b).rb = s.rb := by simp [State.rb]
@[simp] theorem withT_get_md (b : Bool) : (s.withT b).md = s.md := by simp [State.md]
@[simp] theorem withT_get_im (b : Bool) : (s.withT b).im = s.im := by simp [State.im, extractLsb'_setBit]
@[simp] theorem withS_get_t (b : Bool) : (s.withS b).t = s.t := by simp [State.t]
@[simp] theorem withS_get_s (b : Bool) : (s.withS b).s = b := by simp [State.s]
@[simp] theorem withS_get_q (b : Bool) : (s.withS b).q = s.q := by simp [State.q]
@[simp] theorem withS_get_m (b : Bool) : (s.withS b).m = s.m := by simp [State.m]
@[simp] theorem withS_get_fd (b : Bool) : (s.withS b).fd = s.fd := by simp [State.fd]
@[simp] theorem withS_get_bl (b : Bool) : (s.withS b).bl = s.bl := by simp [State.bl]
@[simp] theorem withS_get_rb (b : Bool) : (s.withS b).rb = s.rb := by simp [State.rb]
@[simp] theorem withS_get_md (b : Bool) : (s.withS b).md = s.md := by simp [State.md]
@[simp] theorem withS_get_im (b : Bool) : (s.withS b).im = s.im := by simp [State.im, extractLsb'_setBit]
@[simp] theorem withQ_get_t (b : Bool) : (s.withQ b).t = s.t := by simp [State.t]
@[simp] theorem withQ_get_s (b : Bool) : (s.withQ b).s = s.s := by simp [State.s]
@[simp] theorem withQ_get_q (b : Bool) : (s.withQ b).q = b := by simp [State.q]
@[simp] theorem withQ_get_m (b : Bool) : (s.withQ b).m = s.m := by simp [State.m]
@[simp] theorem withQ_get_fd (b : Bool) : (s.withQ b).fd = s.fd := by simp [State.fd]
@[simp] theorem withQ_get_bl (b : Bool) : (s.withQ b).bl = s.bl := by simp [State.bl]
@[simp] theorem withQ_get_rb (b : Bool) : (s.withQ b).rb = s.rb := by simp [State.rb]
@[simp] theorem withQ_get_md (b : Bool) : (s.withQ b).md = s.md := by simp [State.md]
@[simp] theorem withQ_get_im (b : Bool) : (s.withQ b).im = s.im := by simp [State.im, extractLsb'_setBit]
@[simp] theorem withM_get_t (b : Bool) : (s.withM b).t = s.t := by simp [State.t]
@[simp] theorem withM_get_s (b : Bool) : (s.withM b).s = s.s := by simp [State.s]
@[simp] theorem withM_get_q (b : Bool) : (s.withM b).q = s.q := by simp [State.q]
@[simp] theorem withM_get_m (b : Bool) : (s.withM b).m = b := by simp [State.m]
@[simp] theorem withM_get_fd (b : Bool) : (s.withM b).fd = s.fd := by simp [State.fd]
@[simp] theorem withM_get_bl (b : Bool) : (s.withM b).bl = s.bl := by simp [State.bl]
@[simp] theorem withM_get_rb (b : Bool) : (s.withM b).rb = s.rb := by simp [State.rb]
@[simp] theorem withM_get_md (b : Bool) : (s.withM b).md = s.md := by simp [State.md]
@[simp] theorem withM_get_im (b : Bool) : (s.withM b).im = s.im := by simp [State.im, extractLsb'_setBit]

@[simp] theorem trapSr_t (v : DWord) : (trapSr v)[0] = v[0] := by
  simp [trapSr]
@[simp] theorem trapSr_s (v : DWord) : (trapSr v)[1] = v[1] := by
  simp [trapSr]
@[simp] theorem trapSr_q (v : DWord) : (trapSr v)[8] = v[8] := by
  simp [trapSr]
@[simp] theorem trapSr_m (v : DWord) : (trapSr v)[9] = v[9] := by
  simp [trapSr]
@[simp] theorem trapSr_fd (v : DWord) : (trapSr v)[15] = v[15] := by
  simp [trapSr]
@[simp] theorem trapSr_bl (v : DWord) : (trapSr v)[28] = true := by
  simp [trapSr]
@[simp] theorem trapSr_rb (v : DWord) : (trapSr v)[29] = true := by
  simp [trapSr]
@[simp] theorem trapSr_md (v : DWord) : (trapSr v)[30] = true := by
  simp [trapSr]
@[simp] theorem trapSr_im (v : DWord) : (trapSr v).extractLsb' 4 4 = v.extractLsb' 4 4 := by
  simp [trapSr, extractLsb'_setBit]

/-! SR accessors and the bank mapping under `State.setReg`, which leaves SR alone. -/

@[simp] theorem setReg_get_t (r : Reg) (v : DWord) : (s.setReg r v).t = s.t := by simp [State.t]
@[simp] theorem setReg_get_s (r : Reg) (v : DWord) : (s.setReg r v).s = s.s := by simp [State.s]
@[simp] theorem setReg_get_q (r : Reg) (v : DWord) : (s.setReg r v).q = s.q := by simp [State.q]
@[simp] theorem setReg_get_m (r : Reg) (v : DWord) : (s.setReg r v).m = s.m := by simp [State.m]
@[simp] theorem setReg_get_fd (r : Reg) (v : DWord) : (s.setReg r v).fd = s.fd := by simp [State.fd]
@[simp] theorem setReg_get_bl (r : Reg) (v : DWord) : (s.setReg r v).bl = s.bl := by simp [State.bl]
@[simp] theorem setReg_get_rb (r : Reg) (v : DWord) : (s.setReg r v).rb = s.rb := by simp [State.rb]
@[simp] theorem setReg_get_md (r : Reg) (v : DWord) : (s.setReg r v).md = s.md := by simp [State.md]
@[simp] theorem setReg_get_im (r : Reg) (v : DWord) : (s.setReg r v).im = s.im := by simp [State.im]
@[simp] theorem setReg_bankBMapped (r : Reg) (v : DWord) : (s.setReg r v).bankBMapped = s.bankBMapped := by simp [State.bankBMapped]
@[simp] theorem setReg_physOf (r : Reg) (v : DWord) (x : Reg) : (s.setReg r v).physOf x = s.physOf x := by simp [State.physOf]

/-! SR accessors and the bank mapping under `State.writePhys`, which leaves SR alone. -/

@[simp] theorem writePhys_get_t (p : PhysReg) (v : DWord) : (s.writePhys p v).t = s.t := by simp [State.t]
@[simp] theorem writePhys_get_s (p : PhysReg) (v : DWord) : (s.writePhys p v).s = s.s := by simp [State.s]
@[simp] theorem writePhys_get_q (p : PhysReg) (v : DWord) : (s.writePhys p v).q = s.q := by simp [State.q]
@[simp] theorem writePhys_get_m (p : PhysReg) (v : DWord) : (s.writePhys p v).m = s.m := by simp [State.m]
@[simp] theorem writePhys_get_fd (p : PhysReg) (v : DWord) : (s.writePhys p v).fd = s.fd := by simp [State.fd]
@[simp] theorem writePhys_get_bl (p : PhysReg) (v : DWord) : (s.writePhys p v).bl = s.bl := by simp [State.bl]
@[simp] theorem writePhys_get_rb (p : PhysReg) (v : DWord) : (s.writePhys p v).rb = s.rb := by simp [State.rb]
@[simp] theorem writePhys_get_md (p : PhysReg) (v : DWord) : (s.writePhys p v).md = s.md := by simp [State.md]
@[simp] theorem writePhys_get_im (p : PhysReg) (v : DWord) : (s.writePhys p v).im = s.im := by simp [State.im]
@[simp] theorem writePhys_bankBMapped (p : PhysReg) (v : DWord) : (s.writePhys p v).bankBMapped = s.bankBMapped := by simp [State.bankBMapped]
@[simp] theorem writePhys_physOf (p : PhysReg) (v : DWord) (x : Reg) : (s.writePhys p v).physOf x = s.physOf x := by simp [State.physOf]

/-! SR accessors and the bank mapping under `State.setByte`, which leaves SR alone. -/

@[simp] theorem setByte_get_t (a : DWord) (v : Byte) : (s.setByte a v).t = s.t := by simp [State.t]
@[simp] theorem setByte_get_s (a : DWord) (v : Byte) : (s.setByte a v).s = s.s := by simp [State.s]
@[simp] theorem setByte_get_q (a : DWord) (v : Byte) : (s.setByte a v).q = s.q := by simp [State.q]
@[simp] theorem setByte_get_m (a : DWord) (v : Byte) : (s.setByte a v).m = s.m := by simp [State.m]
@[simp] theorem setByte_get_fd (a : DWord) (v : Byte) : (s.setByte a v).fd = s.fd := by simp [State.fd]
@[simp] theorem setByte_get_bl (a : DWord) (v : Byte) : (s.setByte a v).bl = s.bl := by simp [State.bl]
@[simp] theorem setByte_get_rb (a : DWord) (v : Byte) : (s.setByte a v).rb = s.rb := by simp [State.rb]
@[simp] theorem setByte_get_md (a : DWord) (v : Byte) : (s.setByte a v).md = s.md := by simp [State.md]
@[simp] theorem setByte_get_im (a : DWord) (v : Byte) : (s.setByte a v).im = s.im := by simp [State.im]
@[simp] theorem setByte_bankBMapped (a : DWord) (v : Byte) : (s.setByte a v).bankBMapped = s.bankBMapped := by simp [State.bankBMapped]
@[simp] theorem setByte_physOf (a : DWord) (v : Byte) (x : Reg) : (s.setByte a v).physOf x = s.physOf x := by simp [State.physOf]

/-! SR accessors and the bank mapping under `State.writeMem`, which leaves SR alone. -/

@[simp] theorem afterLoad_get_t (n : Width) (a : DWord) : (s.afterLoad n a).t = s.t := by simp [State.t]
@[simp] theorem afterLoad_get_s (n : Width) (a : DWord) : (s.afterLoad n a).s = s.s := by simp [State.s]
@[simp] theorem afterLoad_get_q (n : Width) (a : DWord) : (s.afterLoad n a).q = s.q := by simp [State.q]
@[simp] theorem afterLoad_get_m (n : Width) (a : DWord) : (s.afterLoad n a).m = s.m := by simp [State.m]
@[simp] theorem afterLoad_get_fd (n : Width) (a : DWord) : (s.afterLoad n a).fd = s.fd := by simp [State.fd]
@[simp] theorem afterLoad_get_bl (n : Width) (a : DWord) : (s.afterLoad n a).bl = s.bl := by simp [State.bl]
@[simp] theorem afterLoad_get_rb (n : Width) (a : DWord) : (s.afterLoad n a).rb = s.rb := by simp [State.rb]
@[simp] theorem afterLoad_get_md (n : Width) (a : DWord) : (s.afterLoad n a).md = s.md := by simp [State.md]
@[simp] theorem afterLoad_get_im (n : Width) (a : DWord) : (s.afterLoad n a).im = s.im := by simp [State.im]
@[simp] theorem afterLoad_bankBMapped (n : Width) (a : DWord) : (s.afterLoad n a).bankBMapped = s.bankBMapped := by simp [State.bankBMapped]
@[simp] theorem afterLoad_physOf (n : Width) (a : DWord) (x : Reg) : (s.afterLoad n a).physOf x = s.physOf x := by simp [State.physOf]
@[simp] theorem writeMem_get_t (n : Width) (a v : DWord) : (s.writeMem n a v).t = s.t := by simp [State.t]
@[simp] theorem writeMem_get_s (n : Width) (a v : DWord) : (s.writeMem n a v).s = s.s := by simp [State.s]
@[simp] theorem writeMem_get_q (n : Width) (a v : DWord) : (s.writeMem n a v).q = s.q := by simp [State.q]
@[simp] theorem writeMem_get_m (n : Width) (a v : DWord) : (s.writeMem n a v).m = s.m := by simp [State.m]
@[simp] theorem writeMem_get_fd (n : Width) (a v : DWord) : (s.writeMem n a v).fd = s.fd := by simp [State.fd]
@[simp] theorem writeMem_get_bl (n : Width) (a v : DWord) : (s.writeMem n a v).bl = s.bl := by simp [State.bl]
@[simp] theorem writeMem_get_rb (n : Width) (a v : DWord) : (s.writeMem n a v).rb = s.rb := by simp [State.rb]
@[simp] theorem writeMem_get_md (n : Width) (a v : DWord) : (s.writeMem n a v).md = s.md := by simp [State.md]
@[simp] theorem writeMem_get_im (n : Width) (a v : DWord) : (s.writeMem n a v).im = s.im := by simp [State.im]
@[simp] theorem writeMem_bankBMapped (n : Width) (a v : DWord) : (s.writeMem n a v).bankBMapped = s.bankBMapped := by simp [State.bankBMapped]
@[simp] theorem writeMem_physOf (n : Width) (a v : DWord) (x : Reg) : (s.writeMem n a v).physOf x = s.physOf x := by simp [State.physOf]

/-! SR accessors and the bank mapping under `State.writeBytes`, which leaves SR alone. -/

@[simp] theorem writeBytes_get_t (n : Width) (a v : DWord) : (s.writeBytes n a v).t = s.t := by simp [State.t]
@[simp] theorem writeBytes_get_s (n : Width) (a v : DWord) : (s.writeBytes n a v).s = s.s := by simp [State.s]
@[simp] theorem writeBytes_get_q (n : Width) (a v : DWord) : (s.writeBytes n a v).q = s.q := by simp [State.q]
@[simp] theorem writeBytes_get_m (n : Width) (a v : DWord) : (s.writeBytes n a v).m = s.m := by simp [State.m]
@[simp] theorem writeBytes_get_fd (n : Width) (a v : DWord) : (s.writeBytes n a v).fd = s.fd := by simp [State.fd]
@[simp] theorem writeBytes_get_bl (n : Width) (a v : DWord) : (s.writeBytes n a v).bl = s.bl := by simp [State.bl]
@[simp] theorem writeBytes_get_rb (n : Width) (a v : DWord) : (s.writeBytes n a v).rb = s.rb := by simp [State.rb]
@[simp] theorem writeBytes_get_md (n : Width) (a v : DWord) : (s.writeBytes n a v).md = s.md := by simp [State.md]
@[simp] theorem writeBytes_get_im (n : Width) (a v : DWord) : (s.writeBytes n a v).im = s.im := by simp [State.im]
@[simp] theorem writeBytes_bankBMapped (n : Width) (a v : DWord) : (s.writeBytes n a v).bankBMapped = s.bankBMapped := by simp [State.bankBMapped]
@[simp] theorem writeBytes_physOf (n : Width) (a v : DWord) (x : Reg) : (s.writeBytes n a v).physOf x = s.physOf x := by simp [State.physOf]

/-! SR accessors and the bank mapping under `State.invalidateLine`, which leaves SR alone. -/

@[simp] theorem invalidateLine_get_t (a : DWord) : (s.invalidateLine a).t = s.t := by simp [State.t]
@[simp] theorem invalidateLine_get_s (a : DWord) : (s.invalidateLine a).s = s.s := by simp [State.s]
@[simp] theorem invalidateLine_get_q (a : DWord) : (s.invalidateLine a).q = s.q := by simp [State.q]
@[simp] theorem invalidateLine_get_m (a : DWord) : (s.invalidateLine a).m = s.m := by simp [State.m]
@[simp] theorem invalidateLine_get_fd (a : DWord) : (s.invalidateLine a).fd = s.fd := by simp [State.fd]
@[simp] theorem invalidateLine_get_bl (a : DWord) : (s.invalidateLine a).bl = s.bl := by simp [State.bl]
@[simp] theorem invalidateLine_get_rb (a : DWord) : (s.invalidateLine a).rb = s.rb := by simp [State.rb]
@[simp] theorem invalidateLine_get_md (a : DWord) : (s.invalidateLine a).md = s.md := by simp [State.md]
@[simp] theorem invalidateLine_get_im (a : DWord) : (s.invalidateLine a).im = s.im := by simp [State.im]
@[simp] theorem invalidateLine_bankBMapped (a : DWord) : (s.invalidateLine a).bankBMapped = s.bankBMapped := by simp [State.bankBMapped]
@[simp] theorem invalidateLine_physOf (a : DWord) (x : Reg) : (s.invalidateLine a).physOf x = s.physOf x := by simp [State.physOf]

/-! SR accessors and the bank mapping under `State.advance`, which leaves SR alone. -/

@[simp] theorem advance_get_t  : (s.advance).t = s.t := by simp [State.t]
@[simp] theorem advance_get_s  : (s.advance).s = s.s := by simp [State.s]
@[simp] theorem advance_get_q  : (s.advance).q = s.q := by simp [State.q]
@[simp] theorem advance_get_m  : (s.advance).m = s.m := by simp [State.m]
@[simp] theorem advance_get_fd  : (s.advance).fd = s.fd := by simp [State.fd]
@[simp] theorem advance_get_bl  : (s.advance).bl = s.bl := by simp [State.bl]
@[simp] theorem advance_get_rb  : (s.advance).rb = s.rb := by simp [State.rb]
@[simp] theorem advance_get_md  : (s.advance).md = s.md := by simp [State.md]
@[simp] theorem advance_get_im  : (s.advance).im = s.im := by simp [State.im]
@[simp] theorem advance_bankBMapped  : (s.advance).bankBMapped = s.bankBMapped := by simp [State.bankBMapped]
@[simp] theorem advance_physOf (x : Reg) : (s.advance).physOf x = s.physOf x := by simp [State.physOf]

/-! SR accessors and the bank mapping under `State.jump`, which leaves SR alone. -/

@[simp] theorem jump_get_t (t : DWord) : (s.jump t).t = s.t := by simp [State.t]
@[simp] theorem jump_get_s (t : DWord) : (s.jump t).s = s.s := by simp [State.s]
@[simp] theorem jump_get_q (t : DWord) : (s.jump t).q = s.q := by simp [State.q]
@[simp] theorem jump_get_m (t : DWord) : (s.jump t).m = s.m := by simp [State.m]
@[simp] theorem jump_get_fd (t : DWord) : (s.jump t).fd = s.fd := by simp [State.fd]
@[simp] theorem jump_get_bl (t : DWord) : (s.jump t).bl = s.bl := by simp [State.bl]
@[simp] theorem jump_get_rb (t : DWord) : (s.jump t).rb = s.rb := by simp [State.rb]
@[simp] theorem jump_get_md (t : DWord) : (s.jump t).md = s.md := by simp [State.md]
@[simp] theorem jump_get_im (t : DWord) : (s.jump t).im = s.im := by simp [State.im]
@[simp] theorem jump_bankBMapped (t : DWord) : (s.jump t).bankBMapped = s.bankBMapped := by simp [State.bankBMapped]
@[simp] theorem jump_physOf (t : DWord) (x : Reg) : (s.jump t).physOf x = s.physOf x := by simp [State.physOf]

/-! SR accessors and the bank mapping under `State.delayedBranch`, which leaves SR alone. -/

@[simp] theorem delayedBranch_get_t (t : DWord) : (s.delayedBranch t).t = s.t := by simp [State.t]
@[simp] theorem delayedBranch_get_s (t : DWord) : (s.delayedBranch t).s = s.s := by simp [State.s]
@[simp] theorem delayedBranch_get_q (t : DWord) : (s.delayedBranch t).q = s.q := by simp [State.q]
@[simp] theorem delayedBranch_get_m (t : DWord) : (s.delayedBranch t).m = s.m := by simp [State.m]
@[simp] theorem delayedBranch_get_fd (t : DWord) : (s.delayedBranch t).fd = s.fd := by simp [State.fd]
@[simp] theorem delayedBranch_get_bl (t : DWord) : (s.delayedBranch t).bl = s.bl := by simp [State.bl]
@[simp] theorem delayedBranch_get_rb (t : DWord) : (s.delayedBranch t).rb = s.rb := by simp [State.rb]
@[simp] theorem delayedBranch_get_md (t : DWord) : (s.delayedBranch t).md = s.md := by simp [State.md]
@[simp] theorem delayedBranch_get_im (t : DWord) : (s.delayedBranch t).im = s.im := by simp [State.im]
@[simp] theorem delayedBranch_bankBMapped (t : DWord) : (s.delayedBranch t).bankBMapped = s.bankBMapped := by simp [State.bankBMapped]
@[simp] theorem delayedBranch_physOf (t : DWord) (x : Reg) : (s.delayedBranch t).physOf x = s.physOf x := by simp [State.physOf]

/-! SR accessors and the bank mapping under `State.consumeIrq`, which leaves SR alone. -/

@[simp] theorem consumeIrq_get_t  : (s.consumeIrq).t = s.t := by simp [State.t]
@[simp] theorem consumeIrq_get_s  : (s.consumeIrq).s = s.s := by simp [State.s]
@[simp] theorem consumeIrq_get_q  : (s.consumeIrq).q = s.q := by simp [State.q]
@[simp] theorem consumeIrq_get_m  : (s.consumeIrq).m = s.m := by simp [State.m]
@[simp] theorem consumeIrq_get_fd  : (s.consumeIrq).fd = s.fd := by simp [State.fd]
@[simp] theorem consumeIrq_get_bl  : (s.consumeIrq).bl = s.bl := by simp [State.bl]
@[simp] theorem consumeIrq_get_rb  : (s.consumeIrq).rb = s.rb := by simp [State.rb]
@[simp] theorem consumeIrq_get_md  : (s.consumeIrq).md = s.md := by simp [State.md]
@[simp] theorem consumeIrq_get_im  : (s.consumeIrq).im = s.im := by simp [State.im]
@[simp] theorem consumeIrq_bankBMapped  : (s.consumeIrq).bankBMapped = s.bankBMapped := by simp [State.bankBMapped]
@[simp] theorem consumeIrq_physOf (x : Reg) : (s.consumeIrq).physOf x = s.physOf x := by simp [State.physOf]

/-! SR accessors and the bank mapping under `State.writeSys`, which leaves SR alone. -/

@[simp] theorem writeSys_get_t (i : SysIdx) (v : DWord) : (s.writeSys i v).t = s.t := by simp [State.t]
@[simp] theorem writeSys_get_s (i : SysIdx) (v : DWord) : (s.writeSys i v).s = s.s := by simp [State.s]
@[simp] theorem writeSys_get_q (i : SysIdx) (v : DWord) : (s.writeSys i v).q = s.q := by simp [State.q]
@[simp] theorem writeSys_get_m (i : SysIdx) (v : DWord) : (s.writeSys i v).m = s.m := by simp [State.m]
@[simp] theorem writeSys_get_fd (i : SysIdx) (v : DWord) : (s.writeSys i v).fd = s.fd := by simp [State.fd]
@[simp] theorem writeSys_get_bl (i : SysIdx) (v : DWord) : (s.writeSys i v).bl = s.bl := by simp [State.bl]
@[simp] theorem writeSys_get_rb (i : SysIdx) (v : DWord) : (s.writeSys i v).rb = s.rb := by simp [State.rb]
@[simp] theorem writeSys_get_md (i : SysIdx) (v : DWord) : (s.writeSys i v).md = s.md := by simp [State.md]
@[simp] theorem writeSys_get_im (i : SysIdx) (v : DWord) : (s.writeSys i v).im = s.im := by simp [State.im]
@[simp] theorem writeSys_bankBMapped (i : SysIdx) (v : DWord) : (s.writeSys i v).bankBMapped = s.bankBMapped := by simp [State.bankBMapped]
@[simp] theorem writeSys_physOf (i : SysIdx) (v : DWord) (x : Reg) : (s.writeSys i v).physOf x = s.physOf x := by simp [State.physOf]
@[simp] theorem withT_bankBMapped (b : Bool) : (s.withT b).bankBMapped = s.bankBMapped := by simp [State.bankBMapped]
@[simp] theorem withT_physOf (b : Bool) (x : Reg) : (s.withT b).physOf x = s.physOf x := by simp [State.physOf]
@[simp] theorem withS_bankBMapped (b : Bool) : (s.withS b).bankBMapped = s.bankBMapped := by simp [State.bankBMapped]
@[simp] theorem withS_physOf (b : Bool) (x : Reg) : (s.withS b).physOf x = s.physOf x := by simp [State.physOf]
@[simp] theorem withQ_bankBMapped (b : Bool) : (s.withQ b).bankBMapped = s.bankBMapped := by simp [State.bankBMapped]
@[simp] theorem withQ_physOf (b : Bool) (x : Reg) : (s.withQ b).physOf x = s.physOf x := by simp [State.physOf]
@[simp] theorem withM_bankBMapped (b : Bool) : (s.withM b).bankBMapped = s.bankBMapped := by simp [State.bankBMapped]
@[simp] theorem withM_physOf (b : Bool) (x : Reg) : (s.withM b).physOf x = s.physOf x := by simp [State.physOf]

end Sys2Proof.Machine
end

