-- ==== Sys2Proof/Laws/Registers.lean ====
section
/-! SUPPORT. General registers and bytes of memory under each update (R22, R70): reading after writing, and what each
update leaves alone. -/

namespace Sys2Proof.Machine

variable (s : State)

/-- Two register numbers name one physical register only when they are equal (R22). -/
@[simp] theorem physOf_eq_iff (q r : Reg) : s.physOf q = s.physOf r ↔ q = r := by
  constructor
  · intro h
    have key : ∀ q r : Reg, q.getLsbD 3 = r.getLsbD 3 → q.extractLsb' 0 3 = r.extractLsb' 0 3 → q = r := by
      decide
    unfold State.physOf at h
    cases hq : q.getLsbD 3 <;> cases hr : r.getLsbD 3 <;> cases hb : s.bankBMapped <;>
      simp only [hq, hr, hb, if_true, if_false, Bool.false_eq_true, PhysReg.bankA.injEq, PhysReg.bankB.injEq,
        PhysReg.high.injEq, reduceCtorEq] at h <;>
      exact key q r (hq.trans hr.symm) h
  · intro h; rw [h]

/-- Reading a physical register after writing one (R22). -/
@[simp] theorem readPhys_writePhys (p q : PhysReg) (v : DWord) :
    (s.writePhys p v).readPhys q = if q = p then v else s.readPhys q := by
  cases p <;> cases q <;> simp [State.writePhys, State.readPhys, Vector.getElem_set, BitVec.toNat_inj] <;>
    split <;> simp_all [eq_comm]

/-- Reading a physical register after writing `x[r]`. -/
@[simp] theorem readPhys_setReg (r : Reg) (q : PhysReg) (v : DWord) :
    (s.setReg r v).readPhys q = if q = s.physOf r then v else s.readPhys q := by
  simp [State.setReg]

/-- Reading `x[q]` after writing `x[r]` (R10). -/
@[simp] theorem reg_setReg (q r : Reg) (v : DWord) :
    (s.setReg r v).reg q = if q = r then v else s.reg q := by
  simp [State.reg]

@[simp] theorem withT_readPhys (b : Bool) (p : PhysReg) : (s.withT b).readPhys p = s.readPhys p := by
  cases p <;> simp [State.readPhys]
@[simp] theorem withT_reg (b : Bool) (r : Reg) : (s.withT b).reg r = s.reg r := by simp [State.reg]
@[simp] theorem withS_readPhys (b : Bool) (p : PhysReg) : (s.withS b).readPhys p = s.readPhys p := by
  cases p <;> simp [State.readPhys]
@[simp] theorem withS_reg (b : Bool) (r : Reg) : (s.withS b).reg r = s.reg r := by simp [State.reg]
@[simp] theorem withQ_readPhys (b : Bool) (p : PhysReg) : (s.withQ b).readPhys p = s.readPhys p := by
  cases p <;> simp [State.readPhys]
@[simp] theorem withQ_reg (b : Bool) (r : Reg) : (s.withQ b).reg r = s.reg r := by simp [State.reg]
@[simp] theorem withM_readPhys (b : Bool) (p : PhysReg) : (s.withM b).readPhys p = s.readPhys p := by
  cases p <;> simp [State.readPhys]
@[simp] theorem withM_reg (b : Bool) (r : Reg) : (s.withM b).reg r = s.reg r := by simp [State.reg]
@[simp] theorem setByte_readPhys (a : DWord) (v : Byte) (p : PhysReg) : (s.setByte a v).readPhys p = s.readPhys p := by
  cases p <;> simp [State.readPhys]
@[simp] theorem setByte_reg (a : DWord) (v : Byte) (r : Reg) : (s.setByte a v).reg r = s.reg r := by simp [State.reg]
@[simp] theorem writeBytes_readPhys (n : Width) (a v : DWord) (p : PhysReg) : (s.writeBytes n a v).readPhys p = s.readPhys p := by
  cases p <;> simp [State.readPhys]
@[simp] theorem writeBytes_reg (n : Width) (a v : DWord) (r : Reg) : (s.writeBytes n a v).reg r = s.reg r := by simp [State.reg]
@[simp] theorem markStale_readPhys (n : Width) (a : DWord) (p : PhysReg) : (s.markStale n a).readPhys p = s.readPhys p := by
  cases p <;> simp [State.readPhys]
@[simp] theorem deviceWrite_readPhys (n : Width) (a v : DWord) (p : PhysReg) : (s.deviceWrite n a v).readPhys p = s.readPhys p := by
  cases p <;> simp [State.readPhys]
@[simp] theorem afterLoad_readPhys (n : Width) (a : DWord) (p : PhysReg) : (s.afterLoad n a).readPhys p = s.readPhys p := by
  cases p <;> simp [State.readPhys]
@[simp] theorem afterLoad_reg (n : Width) (a : DWord) (r : Reg) : (s.afterLoad n a).reg r = s.reg r := by simp [State.reg]
@[simp] theorem writeMem_readPhys (n : Width) (a v : DWord) (p : PhysReg) : (s.writeMem n a v).readPhys p = s.readPhys p := by
  cases p <;> simp [State.readPhys]
@[simp] theorem writeMem_reg (n : Width) (a v : DWord) (r : Reg) : (s.writeMem n a v).reg r = s.reg r := by simp [State.reg]
@[simp] theorem invalidateLine_readPhys (a : DWord) (p : PhysReg) : (s.invalidateLine a).readPhys p = s.readPhys p := by
  cases p <;> simp [State.readPhys]
@[simp] theorem invalidateLine_reg (a : DWord) (r : Reg) : (s.invalidateLine a).reg r = s.reg r := by simp [State.reg]
@[simp] theorem advance_readPhys (p : PhysReg) : (s.advance).readPhys p = s.readPhys p := by
  cases p <;> simp [State.readPhys]
@[simp] theorem advance_reg (r : Reg) : (s.advance).reg r = s.reg r := by simp [State.reg]
@[simp] theorem jump_readPhys (t : DWord) (p : PhysReg) : (s.jump t).readPhys p = s.readPhys p := by
  cases p <;> simp [State.readPhys]
@[simp] theorem jump_reg (t : DWord) (r : Reg) : (s.jump t).reg r = s.reg r := by simp [State.reg]
@[simp] theorem delayedBranch_readPhys (t : DWord) (p : PhysReg) : (s.delayedBranch t).readPhys p = s.readPhys p := by
  cases p <;> simp [State.readPhys]
@[simp] theorem delayedBranch_reg (t : DWord) (r : Reg) : (s.delayedBranch t).reg r = s.reg r := by simp [State.reg]
@[simp] theorem consumeIrq_readPhys (p : PhysReg) : (s.consumeIrq).readPhys p = s.readPhys p := by
  cases p <;> simp [State.readPhys]
@[simp] theorem consumeIrq_reg (r : Reg) : (s.consumeIrq).reg r = s.reg r := by simp [State.reg]
@[simp] theorem enterTrap_readPhys (c : Cause) (saved off : DWord) (p : PhysReg) : (s.enterTrap c saved off).readPhys p = s.readPhys p := by
  cases p <;> simp [State.readPhys]
@[simp] theorem returnFromException_readPhys (p : PhysReg) : (s.returnFromException).readPhys p = s.readPhys p := by
  cases p <;> simp [State.readPhys]
@[simp] theorem writeSys_readPhys (i : SysIdx) (v : DWord) (p : PhysReg) : (s.writeSys i v).readPhys p = s.readPhys p := by
  cases p <;> simp [State.readPhys]
@[simp] theorem writeSys_reg (i : SysIdx) (v : DWord) (r : Reg) : (s.writeSys i v).reg r = s.reg r := by simp [State.reg]
@[simp] theorem markStale_reg (n : Width) (a : DWord) (r : Reg) : (s.markStale n a).reg r = s.reg r := rfl
@[simp] theorem withT_byteAt (b : Bool) (a : DWord) : (s.withT b).byteAt a = s.byteAt a := by simp [State.byteAt]
@[simp] theorem withT_accessRefusal (b : Bool) (w : Width) (e : DWord) : (s.withT b).accessRefusal w e = s.accessRefusal w e := by
  simp [State.accessRefusal, State.byteRefusal, State.oneKind]
@[simp] theorem withS_byteAt (b : Bool) (a : DWord) : (s.withS b).byteAt a = s.byteAt a := by simp [State.byteAt]
@[simp] theorem withS_accessRefusal (b : Bool) (w : Width) (e : DWord) : (s.withS b).accessRefusal w e = s.accessRefusal w e := by
  simp [State.accessRefusal, State.byteRefusal, State.oneKind]
@[simp] theorem withQ_byteAt (b : Bool) (a : DWord) : (s.withQ b).byteAt a = s.byteAt a := by simp [State.byteAt]
@[simp] theorem withQ_accessRefusal (b : Bool) (w : Width) (e : DWord) : (s.withQ b).accessRefusal w e = s.accessRefusal w e := by
  simp [State.accessRefusal, State.byteRefusal, State.oneKind]
@[simp] theorem withM_byteAt (b : Bool) (a : DWord) : (s.withM b).byteAt a = s.byteAt a := by simp [State.byteAt]
@[simp] theorem withM_accessRefusal (b : Bool) (w : Width) (e : DWord) : (s.withM b).accessRefusal w e = s.accessRefusal w e := by
  simp [State.accessRefusal, State.byteRefusal, State.oneKind]
@[simp] theorem setByte_accessRefusal (a : DWord) (v : Byte) (w : Width) (e : DWord) : (s.setByte a v).accessRefusal w e = s.accessRefusal w e := by
  simp [State.accessRefusal, State.byteRefusal, State.oneKind]
@[simp] theorem writeBytes_accessRefusal (n : Width) (a v : DWord) (w : Width) (e : DWord) : (s.writeBytes n a v).accessRefusal w e = s.accessRefusal w e := by
  simp [State.accessRefusal, State.byteRefusal, State.oneKind]
@[simp] theorem markStale_byteAt (n : Width) (x : DWord) (a : DWord) : (s.markStale n x).byteAt a = s.byteAt a := by simp [State.byteAt]
@[simp] theorem markStale_accessRefusal (n : Width) (a : DWord) (w : Width) (e : DWord) : (s.markStale n a).accessRefusal w e = s.accessRefusal w e := by
  simp [State.accessRefusal, State.byteRefusal, State.oneKind]
@[simp] theorem deviceWrite_byteAt (n : Width) (x v : DWord) (a : DWord) : (s.deviceWrite n x v).byteAt a = s.byteAt a := by simp [State.byteAt]
@[simp] theorem afterLoad_byteAt (n : Width) (x : DWord) (a : DWord) : (s.afterLoad n x).byteAt a = s.byteAt a := by simp [State.byteAt]
@[simp] theorem afterLoad_atDevice (n : Width) (x : DWord) (a : DWord) : (s.afterLoad n x).atDevice a = s.atDevice a := by
  simp [State.atDevice]
@[simp] theorem writeMem_accessRefusal (n : Width) (a v : DWord) (w : Width) (e : DWord) : (s.writeMem n a v).accessRefusal w e = s.accessRefusal w e := by
  simp [State.accessRefusal, State.byteRefusal, State.oneKind]
@[simp] theorem invalidateLine_byteAt (x : DWord) (a : DWord) : (s.invalidateLine x).byteAt a = s.byteAt a := by simp [State.byteAt]
@[simp] theorem invalidateLine_accessRefusal (a : DWord) (w : Width) (e : DWord) : (s.invalidateLine a).accessRefusal w e = s.accessRefusal w e := by
  simp [State.accessRefusal, State.byteRefusal, State.oneKind]
@[simp] theorem advance_byteAt (a : DWord) : (s.advance).byteAt a = s.byteAt a := by simp [State.byteAt]
@[simp] theorem advance_accessRefusal (w : Width) (e : DWord) : (s.advance).accessRefusal w e = s.accessRefusal w e := by
  simp [State.accessRefusal, State.byteRefusal, State.oneKind]
@[simp] theorem jump_byteAt (t : DWord) (a : DWord) : (s.jump t).byteAt a = s.byteAt a := by simp [State.byteAt]
@[simp] theorem jump_accessRefusal (t : DWord) (w : Width) (e : DWord) : (s.jump t).accessRefusal w e = s.accessRefusal w e := by
  simp [State.accessRefusal, State.byteRefusal, State.oneKind]
@[simp] theorem delayedBranch_byteAt (t : DWord) (a : DWord) : (s.delayedBranch t).byteAt a = s.byteAt a := by simp [State.byteAt]
@[simp] theorem delayedBranch_accessRefusal (t : DWord) (w : Width) (e : DWord) : (s.delayedBranch t).accessRefusal w e = s.accessRefusal w e := by
  simp [State.accessRefusal, State.byteRefusal, State.oneKind]
@[simp] theorem consumeIrq_byteAt (a : DWord) : (s.consumeIrq).byteAt a = s.byteAt a := by simp [State.byteAt]
@[simp] theorem consumeIrq_accessRefusal (w : Width) (e : DWord) : (s.consumeIrq).accessRefusal w e = s.accessRefusal w e := by
  simp [State.accessRefusal, State.byteRefusal, State.oneKind]
@[simp] theorem enterTrap_byteAt (c : Cause) (saved off : DWord) (a : DWord) : (s.enterTrap c saved off).byteAt a = s.byteAt a := by simp [State.byteAt]
@[simp] theorem enterTrap_accessRefusal (c : Cause) (saved off : DWord) (w : Width) (e : DWord) : (s.enterTrap c saved off).accessRefusal w e = s.accessRefusal w e := by
  simp [State.accessRefusal, State.byteRefusal, State.oneKind]
@[simp] theorem returnFromException_byteAt (a : DWord) : (s.returnFromException).byteAt a = s.byteAt a := by simp [State.byteAt]
@[simp] theorem returnFromException_accessRefusal (w : Width) (e : DWord) : (s.returnFromException).accessRefusal w e = s.accessRefusal w e := by
  simp [State.accessRefusal, State.byteRefusal, State.oneKind]
@[simp] theorem writeSys_byteAt (i : SysIdx) (v : DWord) (a : DWord) : (s.writeSys i v).byteAt a = s.byteAt a := by simp [State.byteAt]
@[simp] theorem writeSys_accessRefusal (i : SysIdx) (v : DWord) (w : Width) (e : DWord) : (s.writeSys i v).accessRefusal w e = s.accessRefusal w e := by
  simp [State.accessRefusal, State.byteRefusal, State.oneKind]
@[simp] theorem writePhys_byteAt (p : PhysReg) (v : DWord) (a : DWord) : (s.writePhys p v).byteAt a = s.byteAt a := by simp [State.byteAt]
@[simp] theorem writePhys_accessRefusal (p : PhysReg) (v : DWord) (w : Width) (e : DWord) : (s.writePhys p v).accessRefusal w e = s.accessRefusal w e := by
  simp [State.accessRefusal, State.byteRefusal, State.oneKind]
@[simp] theorem setReg_byteAt (r : Reg) (v : DWord) (a : DWord) : (s.setReg r v).byteAt a = s.byteAt a := by simp [State.byteAt]
@[simp] theorem setReg_accessRefusal (r : Reg) (v : DWord) (w : Width) (e : DWord) : (s.setReg r v).accessRefusal w e = s.accessRefusal w e := by
  simp [State.accessRefusal, State.byteRefusal, State.oneKind]
@[simp] theorem writeCtrl_byteAt (i : CtrlIdx) (v : DWord) (a : DWord) : (s.writeCtrl i v).byteAt a = s.byteAt a := by simp [State.byteAt]
@[simp] theorem writeCtrl_accessRefusal (i : CtrlIdx) (v : DWord) (w : Width) (e : DWord) : (s.writeCtrl i v).accessRefusal w e = s.accessRefusal w e := by
  simp [State.accessRefusal, State.byteRefusal, State.oneKind]

end Sys2Proof.Machine
end

