-- ==== Sys2Proof/Laws/Memory.lean ====
section
/-! SUPPORT. Memory and the stale set: reading after writing, and that every operation keeps the canonical forms. -/

namespace Sys2Proof.Machine

/-- Reading one address of a list after writing one. -/
@[simp] theorem get_set (m : Memory) (a b : Nat) (v : Byte) :
    Memory.get (Memory.set m a v) b = if b = a then some v else Memory.get m b := by
  induction m with
  | nil => simp [Memory.set, Memory.get]
  | cons c rest ih =>
    obtain ⟨k, x⟩ := c
    simp only [Memory.set]
    split
    · simp only [Memory.get]
    · split
      · subst k; simp only [Memory.get]; split <;> rfl
      · simp only [Memory.get, ih]
        split
        · rename_i hne hbk; subst hbk; rw [if_neg (fun e => hne e.symm)]
        · rfl

/-- A strictly rising list headed by `a`: every later element is above `a`. -/
theorem rising_cons (a : Nat) (l : List Nat) :
    rising (a :: l) = true ↔ (∀ b ∈ l.head?, a < b) ∧ rising l = true := by
  cases l <;> simp [rising]

/-- The first address of a memory after a write. -/
theorem head_set (m : Memory) (a : Nat) (v : Byte) :
    ∀ b ∈ ((Memory.set m a v).map Prod.fst).head?, b = a ∨ b ∈ (m.map Prod.fst).head? := by
  cases m with
  | nil => simp [Memory.set]
  | cons c rest =>
    obtain ⟨k, x⟩ := c
    simp only [Memory.set]
    split
    · simp
    · split <;> simp

/-- A write keeps the addresses strictly rising. -/
theorem rising_set (m : Memory) (a : Nat) (v : Byte) (h : rising (m.map Prod.fst) = true) :
    rising ((Memory.set m a v).map Prod.fst) = true := by
  induction m with
  | nil => simp [Memory.set, rising]
  | cons c rest ih =>
    obtain ⟨k, x⟩ := c
    simp only [List.map_cons, rising_cons] at h
    simp only [Memory.set]
    split
    · rename_i hak
      simp only [List.map_cons, rising_cons, List.head?_cons, Option.mem_def, Option.some.injEq, forall_eq']
      exact ⟨hak, h⟩
    · split
      · rename_i hak; subst hak
        simp only [List.map_cons, rising_cons]; exact h
      · simp only [List.map_cons, rising_cons]
        refine ⟨fun b hb => ?_, ih h.2⟩
        rcases head_set rest a v b hb with rfl | hb
        · omega
        · exact h.1 b hb

/-- A write adds no address but its own. -/
theorem mem_set (m : Memory) (a : Nat) (v : Byte) : ∀ c ∈ Memory.set m a v, c = (a, v) ∨ c ∈ m := by
  induction m with
  | nil => simp [Memory.set]
  | cons c rest ih =>
    obtain ⟨k, x⟩ := c
    intro d hd
    simp only [Memory.set] at hd
    split at hd
    · simpa using hd
    · split at hd
      · simp only [List.mem_cons] at hd ⊢; tauto
      · simp only [List.mem_cons] at hd ⊢
        rcases hd with hd | hd
        · tauto
        · have := ih d hd; tauto

/-- A write of a byte keeps memory in its canonical form (R70). -/
theorem wf_set (m : Memory) (a : Nat) (v : Byte) (ha : a < 2 ^ 32) (h : Memory.wf m = true) :
    Memory.wf (Memory.set m a v) = true := by
  simp only [Memory.wf, Bool.and_eq_true, List.all_eq_true, decide_eq_true_eq] at h ⊢
  refine ⟨rising_set m a v h.1, fun c hc => ?_⟩
  rcases mem_set m a v c hc with rfl | hc
  · exact ha
  · exact h.2 c hc

/-- Memory holds nothing at reset, which is canonical. -/
theorem wf_reset (c : Config) : Memory.wf (State.resetWith c).mem = true := rfl

variable (s : State)

/-- Writing a byte keeps the canonical form. -/
theorem setByte_wf (a : DWord) (v : Byte) (h : Memory.wf s.mem = true) : Memory.wf (s.setByte a v).mem = true :=
  wf_set _ _ _ a.isLt h

/-- One lane of a store keeps the canonical form. -/
theorem setLane_wf (n : Width) (a v : DWord) (k : Nat) (h : Memory.wf s.mem = true) :
    Memory.wf (s.setLane n a v k).mem = true := setByte_wf _ _ _ h

/-- A store keeps the canonical form. -/
theorem writeBytes_wf (n : Width) (a v : DWord) (h : Memory.wf s.mem = true) :
    Memory.wf (s.writeBytes n a v).mem = true := by
  cases n
  · exact setLane_wf _ _ _ _ _ h
  · exact setLane_wf _ _ _ _ _ (setLane_wf _ _ _ _ _ h)
  · exact setLane_wf _ _ _ _ _ (setLane_wf _ _ _ _ _ (setLane_wf _ _ _ _ _ (setLane_wf _ _ _ _ _ h)))

/-- A store with its staleness keeps the canonical form. -/
theorem writeMem_wf (n : Width) (a v : DWord) (h : Memory.wf s.mem = true) :
    Memory.wf (s.writeMem n a v).mem = true := by
  unfold State.writeMem
  split
  · exact h
  · exact writeBytes_wf _ _ _ _ h

/-- Placing an instruction word keeps the canonical form. -/
theorem placeWord_wf (w : Word) (h : Memory.wf s.mem = true) : Memory.wf (s.placeWord w).mem = true := by
  unfold State.placeWord State.mapWord
  refine writeBytes_wf _ _ _ _ ?_
  split <;> exact h

/-- Reading one byte after writing one. -/
@[simp] theorem byteAt_setByte (a b : DWord) (v : Byte) :
    (s.setByte a v).byteAt b = if b = a then v else s.byteAt b := by
  simp only [State.byteAt, setByte_mem, get_set, BitVec.toNat_inj]
  split <;> simp

/-- Reading one byte after one lane of a store. -/
@[simp] theorem byteAt_setLane (n : Width) (a v : DWord) (k : Nat) (b : DWord) :
    (s.setLane n a v k).byteAt b =
      if b = a + lane s.cfg.endian n k then v.extractLsb' (8 * k) 8 else s.byteAt b := by
  simp [State.setLane]

/-- A store leaves every byte outside its own alone. -/
theorem byteAt_writeMem_of_ne (n : Width) (a v b : DWord)
    (h : ∀ k, k < n.bytes → b ≠ a + BitVec.ofNat 32 k) : (s.writeMem n a v).byteAt b = s.byteAt b := by
  unfold State.writeMem
  rw [markStale_byteAt]
  split
  · simp
  have hl : ∀ k, k < n.bytes → b ≠ a + lane s.cfg.endian n k := by
    intro k hk
    unfold lane
    split
    · exact h k hk
    · exact h _ (by omega)
  cases n <;> simp only [State.writeBytes, byteAt_setLane, setLane_cfg] <;>
    simp only [hl 0 (by decide), if_false]
  · simp only [hl 1 (by decide), if_false]
  · simp only [hl 1 (by decide), hl 2 (by decide), hl 3 (by decide), if_false]

/-- Two lanes of one access coincide only when they are one lane. -/
theorem lane_eq_iff (e : Endian) (n : Width) (i j : Nat) (hi : i < n.bytes) (hj : j < n.bytes) :
    lane e n i = lane e n j ↔ i = j := by
  have hn : n.bytes ≤ 4 := by cases n <;> decide
  have key : ∀ x y : Nat, x < 4 → y < 4 → BitVec.ofNat 32 x = BitVec.ofNat 32 y → x = y := by
    intro x y hx hy h
    have : x % 2 ^ 32 = y % 2 ^ 32 := by simpa using congrArg BitVec.toNat h
    omega
  refine ⟨fun h => ?_, fun h => by rw [h]⟩
  cases e
  · exact key i j (by omega) (by omega) h
  · have := key (n.bytes - 1 - i) (n.bytes - 1 - j) (by omega) (by omega) h
    omega

/-- What lies in each lane after a store to memory. -/
theorem laneAt_writeMem (n : Width) (a v : DWord) (k : Nat) (hd : s.atDevice a = false) (hk : k < n.bytes) :
    (s.writeMem n a v).laneAt n a k = v.extractLsb' (8 * k) 8 := by
  have hm : (s.writeMem n a v).laneAt n a k = (s.writeBytes n a v).byteAt (a + lane s.cfg.endian n k) := by
    simp [State.writeMem, State.laneAt, hd]
  rw [hm]
  have hc : k = 0 ∨ k = 1 ∨ k = 2 ∨ k = 3 := by
    have : n.bytes ≤ 4 := by cases n <;> decide
    omega
  cases n <;> rcases hc with rfl | rfl | rfl | rfl <;>
    first
    | exact absurd hk (by decide)
    | simp (disch := decide) [State.writeBytes, lane_eq_iff]

end Sys2Proof.Machine
end

