-- ==== Sys2Proof/Laws/Stale.lean ====
section
/-! SUPPORT. The stale set (R49, R86): that every operation keeps its canonical form, and which units it holds
afterwards. -/

namespace Sys2Proof.Machine

/-- Membership after an insertion. -/
@[simp] theorem mem_insertRising (l : List Nat) (a b : Nat) : b ∈ insertRising l a ↔ b = a ∨ b ∈ l := by
  induction l with
  | nil => simp [insertRising]
  | cons k rest ih =>
    simp only [insertRising]
    split
    · simp
    · split
      · subst a; simp
      · simp only [List.mem_cons, ih]; tauto

/-- An insertion keeps a list strictly rising. -/
theorem rising_insertRising (l : List Nat) (a : Nat) (h : rising l = true) : rising (insertRising l a) = true := by
  induction l with
  | nil => rfl
  | cons k rest ih =>
    have h' := (rising_cons k rest).mp h
    simp only [insertRising]
    split
    · rename_i hak; exact (rising_cons _ _).mpr ⟨by simpa using hak, h⟩
    · split
      · exact h
      · refine (rising_cons _ _).mpr ⟨fun b hb => ?_, ih h'.2⟩
        have hb' : b ∈ insertRising rest a := List.mem_of_mem_head? hb
        rcases (mem_insertRising _ _ _).mp hb' with rfl | hm
        · omega
        · cases rest with
          | nil => simp at hm
          | cons c rest' =>
            have hkc : k < c := h'.1 c rfl
            simp only [insertRising] at hb
            split at hb
            · simp at hb; omega
            · split at hb <;> simp at hb <;> omega

/-- A strictly rising list has its first element below all others. -/
theorem rising_lt (k : Nat) (l : List Nat) (h : rising (k :: l) = true) : ∀ b ∈ l, k < b := by
  induction l generalizing k with
  | nil => simp
  | cons c rest ih =>
    have h' := (rising_cons k (c :: rest)).mp h
    intro b hb
    have hkc : k < c := h'.1 c rfl
    rcases List.mem_cons.mp hb with rfl | hb
    · exact hkc
    · exact Nat.lt_trans hkc (ih c h'.2 b hb)

/-- Leaving elements out keeps a list strictly rising. -/
theorem rising_filter (p : Nat → Bool) (l : List Nat) (h : rising l = true) : rising (l.filter p) = true := by
  induction l with
  | nil => rfl
  | cons k rest ih =>
    have h' := (rising_cons k rest).mp h
    simp only [List.filter_cons]
    split
    · refine (rising_cons _ _).mpr ⟨fun b hb => ?_, ih h'.2⟩
      exact rising_lt k rest h b (List.mem_of_mem_filter (List.mem_of_mem_head? hb))
    · exact ih h'.2

/-- The canonical form of the stale set, as a statement about its elements. -/
theorem staleWf_iff (l : List Nat) :
    staleWf l = true ↔ rising l = true ∧ ∀ a ∈ l, a % 2 = 0 ∧ a < 2 ^ 32 := by
  simp [staleWf, List.all_eq_true, Bool.and_eq_true, decide_eq_true_eq, beq_iff_eq]

/-- A unit's address is even and in the address space. -/
theorem unitOf_even (a : DWord) : unitOf a % 2 = 0 ∧ unitOf a < 2 ^ 32 := by
  refine ⟨?_, (a &&& 0xFFFFFFFE#32).isLt⟩
  rcases Nat.mod_two_eq_zero_or_one (unitOf a) with h | h
  · exact h
  · unfold unitOf at h
    rw [BitVec.toNat_and, Nat.and_mod_two_eq_one] at h
    exact absurd h.2 (by decide)

/-- Marking keeps the canonical form. -/
theorem insertRising_staleWf (l : List Nat) (a : DWord) (h : staleWf l = true) :
    staleWf (insertRising l (unitOf a)) = true := by
  rw [staleWf_iff] at h ⊢
  refine ⟨rising_insertRising _ _ h.1, fun b hb => ?_⟩
  rcases (mem_insertRising _ _ _).mp hb with rfl | hb
  · exact unitOf_even a
  · exact h.2 b hb

/-- Leaving units out keeps the canonical form. -/
theorem filter_staleWf (p : Nat → Bool) (l : List Nat) (h : staleWf l = true) : staleWf (l.filter p) = true := by
  rw [staleWf_iff] at h ⊢
  exact ⟨rising_filter _ _ h.1, fun b hb => h.2 b (List.mem_of_mem_filter hb)⟩

variable (s : State)

/-- The staleness of a store keeps the canonical form. -/
theorem markStale_wf (n : Width) (a : DWord) (h : staleWf s.icacheStale = true) :
    staleWf (s.markStale n a).icacheStale = true := by
  cases n
  · exact insertRising_staleWf _ _ h
  · exact insertRising_staleWf _ _ h
  · exact insertRising_staleWf _ _ (insertRising_staleWf _ _ h)

/-- A store keeps the canonical form of the stale set. -/
theorem writeMem_staleWf (n : Width) (a v : DWord) (h : staleWf s.icacheStale = true) :
    staleWf (s.writeMem n a v).icacheStale = true :=
  markStale_wf _ _ _ (by split <;> simpa using h)

/-- `ICBI` keeps the canonical form of the stale set. -/
theorem invalidateLine_staleWf (a : DWord) (h : staleWf s.icacheStale = true) :
    staleWf (s.invalidateLine a).icacheStale = true := filter_staleWf _ _ h

/-- Which units are stale after a store: those it touches and those stale before (R49). -/
theorem mem_writeMem_icacheStale (n : Width) (a v : DWord) (u : Nat) :
    u ∈ (s.writeMem n a v).icacheStale ↔ u ∈ unitsOf n a ∨ u ∈ s.icacheStale := by
  have : (s.writeMem n a v).icacheStale = (unitsOf n a).foldl insertRising s.icacheStale := by
    unfold State.writeMem
    split <;> simp [State.markStale]
  rw [this]
  cases n <;> simp [unitsOf]; tauto

end Sys2Proof.Machine
end

