-- ==== Sys2Proof/Laws/Ops.lean ====
section
/-! SUPPORT. One lemma for each shared operation, saying once all it can do when it answers a next state. -/

namespace Sys2Proof.Machine

variable {s t : State}

/-- A raised exception has a next state only while SR.BL = 0, and it is the trap sequence's (R430, R435). -/
theorem raise_next {c : Cause} {saved : DWord} :
    raise c saved s = .next t ↔ s.bl = false ∧ t = s.enterTrap c saved s.cfg.vecGeneral := by
  unfold raise
  cases s.bl <;> simp [eq_comm]

/-- What an illegal instruction does when it has a next state (R423, R424). -/
theorem raiseIllegal_next {w : Word} :
    raiseIllegal w s = .next t ↔ s.bl = false ∧
      t = s.enterTrap (if s.inSlot then .slotIllegalInstruction w else .illegalInstruction w) s.faultPc
        s.cfg.vecGeneral := raise_next

/-- An instruction that ends normally. -/
@[simp] theorem finish_next : finish s = .next t ↔ t = s.advance := by simp [finish, eq_comm]

/-- The checks of an instruction: it runs when they hold and is illegal otherwise. -/
theorem guardLegal_next {ok : Bool} {i : Instr} {k : Result} :
    guardLegal ok i s k = .next t ↔ (ok = true ∧ k = .next t) ∨ (ok = false ∧ raiseIllegal (encode i) s = .next t) := by
  unfold guardLegal
  cases ok <;> simp

/-- A load with a next state: made at an aligned address that memory or a device answers, or an address error taken
(R75, R425). -/
theorem withLoad_next {n : Width} {a : DWord} {k : DWord → State → Result} :
    withLoad n a s k = .next t ↔
      (aligned n a = true ∧ s.accessRefusal n a = none ∧ k (s.loadValue n a) (s.afterLoad n a) = .next t) ∨
      (aligned n a = false ∧ raise (.addressErrorRead a) s.faultPc s = .next t) := by
  unfold withLoad
  cases aligned n a <;> cases h : s.accessRefusal n a <;> simp

/-- A store with a next state: made at an aligned address that memory or a device answers, or an address error taken
(R75, R425). -/
theorem withStore_next {n : Width} {a v : DWord} {k : State → Result} :
    withStore n a v s k = .next t ↔
      (aligned n a = true ∧ s.accessRefusal n a = none ∧ k (s.writeMem n a v) = .next t) ∨
      (aligned n a = false ∧ raise (.addressErrorWrite a) s.faultPc s = .next t) := by
  unfold withStore
  cases aligned n a <;> cases h : s.accessRefusal n a <;> simp

/-- A two-register operation always has a next state. -/
theorem binaryOp_next {f : DWord → DWord → DWord} {m n : Reg} :
    binaryOp f m n s = .next t ↔ t = (s.setReg n (f (s.reg n) (s.reg m))).advance := finish_next

/-- A one-register operation always has a next state. -/
theorem unaryOp_next {f : DWord → DWord} {m n : Reg} :
    unaryOp f m n s = .next t ↔ t = (s.setReg n (f (s.reg m))).advance := finish_next

/-- A compare always has a next state. -/
theorem compareOp_next {p : DWord → DWord → Bool} {m n : Reg} :
    compareOp p m n s = .next t ↔ t = (s.withT (p (s.reg n) (s.reg m))).advance := finish_next

/-- An operation that writes a register and T always has a next state. -/
theorem binaryFlagOp_next {f : DWord → DWord → Bool → DWord × Bool} {m n : Reg} :
    binaryFlagOp f m n s = .next t ↔
      t = ((s.setReg n (f (s.reg n) (s.reg m) s.t).1).withT (f (s.reg n) (s.reg m) s.t).2).advance := finish_next

/-- A one-register operation that writes T always has a next state. -/
theorem unaryFlagOp_next {f : DWord → Bool → DWord × Bool} {n : Reg} :
    unaryFlagOp f n s = .next t ↔
      t = ((s.setReg n (f (s.reg n) s.t).1).withT (f (s.reg n) s.t).2).advance := finish_next

/-- What a load into a register does when it has a next state. -/
theorem loadTo_next {w : Width} {ea : DWord} {n : Reg} :
    loadTo w ea n s = .next t ↔
      (aligned w ea = true ∧ s.accessRefusal w ea = none ∧
        t = ((s.afterLoad w ea).setReg n (extendLoad w (s.loadValue w ea))).advance) ∨
      (aligned w ea = false ∧ raise (.addressErrorRead ea) s.faultPc s = .next t) := by
  simp [loadTo, withLoad_next]

/-- What a post-increment load does when it has a next state. -/
theorem loadIncTo_next {w : Width} {m n : Reg} :
    loadIncTo w m n s = .next t ↔
      (aligned w (s.reg m) = true ∧ s.accessRefusal w (s.reg m) = none ∧
        t = (((s.afterLoad w (s.reg m)).setReg m (s.reg m + w.size)).setReg n
          (extendLoad w (s.loadValue w (s.reg m)))).advance) ∨
      (aligned w (s.reg m) = false ∧ raise (.addressErrorRead (s.reg m)) s.faultPc s = .next t) := by
  simp [loadIncTo, withLoad_next]

/-- What a store does when it has a next state. -/
theorem storeAt_next {w : Width} {ea v : DWord} :
    storeAt w ea v s = .next t ↔
      (aligned w ea = true ∧ s.accessRefusal w ea = none ∧ t = (s.writeMem w ea v).advance) ∨
      (aligned w ea = false ∧ raise (.addressErrorWrite ea) s.faultPc s = .next t) := by
  simp [storeAt, withStore_next]

/-- What a pre-decrement store does when it has a next state. -/
theorem storeDecAt_next {w : Width} {n : Reg} {v : DWord} :
    storeDecAt w n v s = .next t ↔
      (aligned w (s.reg n - w.size) = true ∧ s.accessRefusal w (s.reg n - w.size) = none ∧
        t = ((s.writeMem w (s.reg n - w.size) v).setReg n (s.reg n - w.size)).advance) ∨
      (aligned w (s.reg n - w.size) = false ∧
        raise (.addressErrorWrite (s.reg n - w.size)) s.faultPc s = .next t) := by
  simp [storeDecAt, withStore_next]

/-- What a fetch does when the step has a next state (R76, R86). -/
theorem withFetch_next {k : Word → State → Result} :
    withFetch s k = .next t ↔
      (s.pc.getLsbD 0 = false ∧ s.accessRefusal .word s.pc = none ∧ s.pc.toNat ∉ s.icacheStale ∧
        k s.fetchWord (s.afterLoad .word s.pc) = .next t) ∨
      (s.pc.getLsbD 0 = true ∧ raise (.addressErrorRead s.pc) s.pc s = .next t) := by
  unfold withFetch
  cases s.pc.getLsbD 0 <;> cases s.accessRefusal .word s.pc <;> by_cases h : s.pc.toNat ∈ s.icacheStale <;>
    simp [h]

/-- What a step does when it has a next state (R200, R441). -/
theorem step_next :
    step s = .next t ↔
      (∃ l, s.irqNow = some l ∧ s.consumeIrq.accepts l = true ∧
        t = s.consumeIrq.enterTrap (.interrupt l) s.pc s.cfg.vecInterrupt) ∨
      ((∀ l, s.irqNow = some l → s.consumeIrq.accepts l = false) ∧ s.sleeping = true ∧ s.consumeIrq.canWake = true ∧
        t = s.consumeIrq) ∨
      ((∀ l, s.irqNow = some l → s.consumeIrq.accepts l = false) ∧ s.sleeping = false ∧
        withFetch s.consumeIrq (runWord exec) = .next t) := by
  unfold step boundary State.unaccepting acceptInterrupt
  cases h : s.irqNow with
  | none => cases hs : s.sleeping <;> cases hw : s.consumeIrq.canWake <;> simp [hs, hw, @eq_comm _ t]
  | some l =>
    cases ha : s.consumeIrq.accepts l <;> cases hs : s.sleeping <;> cases hw : s.consumeIrq.canWake <;>
      simp [ha, hs, hw, @eq_comm _ t]

end Sys2Proof.Machine
end

