-- ==== Sys2Proof/Laws/Claims.lean ====
section
/-! SUPPORT. The shared operations in the words of the statements: frames, values in memory, traps. -/

namespace Sys2Proof.Claim

open Sys2Proof.Machine

variable (s : State)

/-- Every update of SR bits, general registers and pc that keeps the rest gives a frame. -/
theorem special_congr {s t : State} (h : t.gbr = s.gbr ∧ t.vbr = s.vbr ∧ t.ssr = s.ssr ∧ t.spc = s.spc ∧
    t.sgr = s.sgr ∧ t.dbr = s.dbr ∧ t.mach = s.mach ∧ t.macl = s.macl ∧ t.pr = s.pr ∧ t.fpul = s.fpul ∧
    t.fpscr = s.fpscr) : ∀ x, special t x = special s x := by
  intro x; cases x <;> simp [special, h]

/-- The end of an instruction follows the sequence of the state it began in. -/
theorem inSequence_advance {s u : State} (hp : u.pc = s.pc) (hd : u.delayTarget = s.delayTarget) :
    InSequence s u.advance := by
  simp [InSequence, hp, hd]

/-- Writing one register is a frame. -/
theorem setsReg_advance (n : Reg) (v : DWord) : SetsReg s n v (s.setReg n v).advance := by
  refine ⟨by simp, ⟨?_, ?_, ?_, ?_, ?_, ?_, ?_, ?_, ?_, ?_, ?_⟩, inSequence_advance (by simp) (by simp)⟩
  · intro p hp; simp at hp; simp [hp]
  · intro i _; simp
  · intro x _; exact special_congr (by simp) x
  all_goals simp

/-- Writing T is a frame. -/
theorem setsT_advance (b : Bool) : SetsT s b (s.withT b).advance := by
  refine ⟨by simp, ⟨?_, ?_, ?_, ?_, ?_, ?_, ?_, ?_, ?_, ?_, ?_⟩, inSequence_advance (by simp) (by simp)⟩
  · intro p _; simp
  · intro i hi
    have : i ≠ 0 := by rintro rfl; simp at hi
    simp [getLsbD_setBit, this]
  · intro x _; exact special_congr (by simp) x
  all_goals simp

/-- Writing one register and T is a frame. -/
theorem setsRegT_advance (n : Reg) (v : DWord) (b : Bool) : SetsRegT s n v b ((s.setReg n v).withT b).advance := by
  refine ⟨by simp, by simp, ⟨?_, ?_, ?_, ?_, ?_, ?_, ?_, ?_, ?_, ?_, ?_⟩, inSequence_advance (by simp) (by simp)⟩
  · intro p hp; simp at hp; simp [hp]
  · intro i hi
    have : i ≠ 0 := by rintro rfl; simp at hi
    simp [getLsbD_setBit, this]
  · intro x _; exact special_congr (by simp) x
  all_goals simp

/-- Doing nothing is a frame. -/
theorem skips_advance : Skips s s.advance := by
  refine ⟨⟨?_, ?_, ?_, ?_, ?_, ?_, ?_, ?_, ?_, ?_, ?_⟩, inSequence_advance rfl rfl⟩
  · intro p _; simp
  · intro i _; simp
  · intro x _; exact special_congr (by simp) x
  all_goals simp

/-- The trap sequence in the words of R430. -/
theorem entered_enterTrap (c : Cause) (saved off : DWord) : Entered s c saved off (s.enterTrap c saved off) := by
  constructor
  case sr => intro i h28 h29 h30; simp [trapSr, getLsbD_setBit, h28, h29, h30]
  case special => intro x h1 h2 h3; cases x <;> simp_all [special]
  case md => rw [enterTrap_sr, BitVec.getLsbD_eq_getElem (by decide)]; exact trapSr_md _
  case rb => rw [enterTrap_sr, BitVec.getLsbD_eq_getElem (by decide)]; exact trapSr_rb _
  case bl => rw [enterTrap_sr, BitVec.getLsbD_eq_getElem (by decide)]; exact trapSr_bl _
  all_goals simp

/-- A raised exception is taken while SR.BL = 0. -/
theorem raise_entered (c : Cause) (saved : DWord) (h : s.sr.getLsbD 28 = false) :
    ∃ t, raise c saved s = .next t ∧ Entered s c saved s.cfg.vecGeneral t :=
  ⟨_, raise_next.mpr ⟨h, rfl⟩, entered_enterTrap s c saved _⟩

/-- The two forms of `savedPc`. -/
theorem faultPc_eq : s.faultPc = savedPc s := by
  unfold State.faultPc savedPc State.inSlot
  cases s.delayTarget <;> simp

/-- The two forms of `illegalCause`. -/
theorem cause_eq (w : Word) :
    (if s.inSlot then Cause.slotIllegalInstruction w else .illegalInstruction w) = illegalCause s w := by
  unfold illegalCause State.inSlot
  cases s.delayTarget <;> simp

/-- An illegal instruction is taken while SR.BL = 0. -/
theorem raiseIllegal_entered (w : Word) (h : s.sr.getLsbD 28 = false) :
    ∃ t, raiseIllegal w s = .next t ∧ Entered s (illegalCause s w) (savedPc s) s.cfg.vecGeneral t := by
  unfold raiseIllegal
  rw [faultPc_eq, cause_eq]
  exact raise_entered s _ _ h

/-- Outside a delay slot. -/
theorem inSlot_none (h : s.delayTarget = none) : s.inSlot = false := by simp [State.inSlot, h]

/-- The privilege check. -/
theorem privOk_eq : s.privOk = priv s := by
  unfold State.privOk priv State.md
  cases s.cfg.privCheck <;> cases s.sr.getLsbD 30 <;> rfl

/-! Memory. -/

/-- Alignment as a remainder (R10). -/
theorem aligned_iff (n : Width) (a : DWord) : aligned n a = true ↔ a.toNat % n.bytes = 0 := by
  have h : ∀ k, a.toNat &&& (2 ^ k - 1) = a.toNat % 2 ^ k := fun k => Nat.and_two_pow_sub_one_eq_mod _ _
  cases n
  · simp [aligned, Width.alignMask, Width.bytes, Nat.mod_one]
  · have := h 1
    simp [aligned, Width.alignMask, Width.bytes, BitVec.toNat_eq] at this ⊢
  · have := h 2
    simp [aligned, Width.alignMask, Width.bytes, BitVec.toNat_eq] at this ⊢
    rw [this]

/-- The bytes of an aligned access do not wrap (R82). -/
theorem toNat_add_of_aligned (n : Width) (a : DWord) (k : Nat) (ha : a.toNat % n.bytes = 0) (hk : k < n.bytes) :
    (a + BitVec.ofNat 32 k).toNat = a.toNat + k := by
  have hlt := a.isLt
  have hn : n.bytes = 1 ∨ n.bytes = 2 ∨ n.bytes = 4 := by cases n <;> decide
  rw [BitVec.toNat_add, BitVec.toNat_ofNat]
  have hk' : k % 2 ^ 32 = k := Nat.mod_eq_of_lt (by omega)
  rw [hk', Nat.mod_eq_of_lt]
  rcases hn with hn | hn | hn <;> rw [hn] at ha hk <;> omega

/-- An access that memory or a device answers passes its checks (R75, R79). -/
theorem answered_iff (n : Width) (a : DWord) :
    Answered s n.bytes a ↔ aligned n a = true ∧ s.accessRefusal n a = none := by
  rw [aligned_iff]
  unfold Answered
  refine and_congr_right fun ha => ?_
  have hn : 0 < n.bytes := by cases n <;> decide
  have e : ∀ k, k < n.bytes → (a + BitVec.ofNat 32 k).toNat = a.toNat + k :=
    fun k hk => toNat_add_of_aligned n a k ha hk
  have key : s.accessRefusal n a = none ↔
      (∀ k, k < n.bytes → s.cfg.kindAt (a.toNat + k) ≠ none) ∧
      ∀ k, k < n.bytes → s.cfg.kindAt (a.toNat + k) = s.cfg.kindAt a.toNat := by
    have h1 : (List.range n.bytes).findSome? (fun k => s.byteRefusal (a + BitVec.ofNat 32 k)) = none ↔
        ∀ k, k < n.bytes → s.cfg.kindAt (a.toNat + k) ≠ none := by
      rw [List.findSome?_eq_none_iff]
      simp only [List.mem_range]
      refine forall_congr' fun k => forall_congr' fun hk => ?_
      unfold State.byteRefusal
      rw [e k hk]
      cases s.cfg.kindAt (a.toNat + k) <;> simp
    have h2 : s.oneKind n a = true ↔ ∀ k, k < n.bytes → s.cfg.kindAt (a.toNat + k) = s.cfg.kindAt a.toNat := by
      unfold State.oneKind
      simp only [List.all_eq_true, List.mem_range, beq_iff_eq]
      exact forall_congr' fun k => forall_congr' fun hk => by rw [e k hk]
    unfold State.accessRefusal
    rw [← h1, ← h2]
    cases (List.range n.bytes).findSome? (fun k => s.byteRefusal (a + BitVec.ofNat 32 k)) <;> simp
  rw [key]
  constructor
  · rintro ⟨kind, h⟩
    have h0 := h 0 hn
    rw [Nat.add_zero] at h0
    exact ⟨fun k hk => by rw [h k hk]; simp, fun k hk => by rw [h k hk, h0]⟩
  · rintro ⟨h1, h2⟩
    have h0 := h1 0 hn
    rw [Nat.add_zero] at h0
    obtain ⟨kind, hk⟩ := Option.ne_none_iff_exists'.mp h0
    exact ⟨kind, fun k hk' => by rw [h2 k hk', hk]⟩

/-- Whether a device answers at an address. -/
theorem atDevice_iff (a : DWord) : s.atDevice a = true ↔ s.cfg.kindAt a.toNat = some .device := by
  simp [State.atDevice]

/-- A value with one more byte below it. -/
theorem toNat_append_byte {k : Nat} (x : BitVec k) (y : Byte) : (x ++ y).toNat = y.toNat + x.toNat * 256 := by
  rw [BitVec.toNat_append, ← Nat.shiftLeft_add_eq_or_of_lt (BitVec.isLt _), Nat.shiftLeft_eq, Nat.add_comm]

/-- The offset of a byte is its lane (R72). -/
theorem weightOffset_eq (n : Width) (k : Nat) :
    BitVec.ofNat 32 (weightOffset s n.bytes k) = lane s.cfg.endian n k := by
  unfold weightOffset lane; cases s.cfg.endian <;> simp

/-- A sum over four bytes. -/
theorem foldr_four (f : Nat → Nat → Nat) : ([0, 1, 2, 3] : List Nat).foldr f 0 = f 0 (f 1 (f 2 (f 3 0))) := rfl

/-- The weights of four bytes. -/
theorem sum_four (a b c d : Nat) :
    a * 2 ^ (8 * 0) + (b * 2 ^ (8 * 1) + (c * 2 ^ (8 * 2) + (d * 2 ^ (8 * 3) + 0))) =
      a + b * 256 + c * 65536 + d * 16777216 := by
  norm_num; omega

/-- The value of an access by the sum of R72. -/
theorem memValue_eq (n : Width) (a : DWord) : memValue s n.bytes a = (s.readMem n a).toNat := by
  have e : ∀ k, s.byteAt (a + BitVec.ofNat 32 (weightOffset s n.bytes k)) = s.laneAt n a k := fun k => by
    rw [weightOffset_eq]; rfl
  unfold memValue
  simp only [e]
  cases n
  · have h0 : (s.laneAt .byte a 0).toNat < 256 := BitVec.isLt _
    simp [Width.bytes, List.range_succ, State.readMem]
    omega
  · have h0 : (s.laneAt .word a 0).toNat < 256 := BitVec.isLt _
    have h1 : (s.laneAt .word a 1).toNat < 256 := BitVec.isLt _
    simp only [Width.bytes, List.range_succ, List.range_zero, List.nil_append, List.cons_append, List.foldr_cons,
      List.foldr_nil, State.readMem, BitVec.toNat_setWidth, toNat_append_byte]
    rw [Nat.mod_eq_of_lt (Nat.lt_trans (m := 65536) (by omega) (by norm_num))]
    norm_num
  · rw [show (List.range Width.long.bytes) = [0, 1, 2, 3] from rfl, foldr_four, sum_four]
    simp only [State.readMem, toNat_append_byte]
    omega

/-- The low bytes of a value as a remainder. -/
theorem toNat_and_valueMask (n : Width) (v : DWord) : (v &&& n.valueMask).toNat = v.toNat % 2 ^ (8 * n.bytes) := by
  have hv := v.isLt
  cases n
  · exact Nat.and_two_pow_sub_one_eq_mod v.toNat 8
  · exact Nat.and_two_pow_sub_one_eq_mod v.toNat 16
  · exact Nat.and_two_pow_sub_one_eq_mod v.toNat 32

/-- What the device delivers (R79). -/
theorem deviceValue_toNat (n : Width) : (s.deviceValue n).toNat =
    ((s.deviceInput.head?).getD (Config.deviceValue s.deviceLog.length)).toNat % 2 ^ (8 * n.bytes) := by
  unfold State.deviceValue
  rw [toNat_and_valueMask, List.headD_eq_head?_getD]

/-- The value of a read, from memory or from a device. -/
theorem valueAt_eq (n : Width) (a : DWord) : valueAt s n.bytes a = (s.loadValue n a).toNat := by
  unfold valueAt State.loadValue
  by_cases h : s.cfg.kindAt a.toNat = some .device
  · rw [if_pos h, if_pos ((atDevice_iff s a).mpr h), deviceValue_toNat]
  · rw [if_neg h, if_neg (fun e => h ((atDevice_iff s a).mp e)), memValue_eq]

/-- The state after a read. -/
theorem afterRead_eq (n : Width) (a : DWord) : afterRead s n.bytes a = s.afterLoad n a := by
  unfold afterRead State.afterLoad
  by_cases h : s.cfg.kindAt a.toNat = some .device
  · have hd := (atDevice_iff s a).mpr h
    rw [if_pos h, if_pos hd, valueAt_eq]
    simp [State.deviceRead, State.loadValue, hd]
  · rw [if_neg h, if_neg (fun e => h ((atDevice_iff s a).mp e))]

/-- The state after a device, if one answers, has been given a value. -/
theorem afterWrite_eq (n : Width) (a v : DWord) :
    afterWrite s n.bytes a v = if s.atDevice a then s.deviceWrite n a v else s := by
  unfold afterWrite
  by_cases h : s.cfg.kindAt a.toNat = some .device
  · rw [if_pos h, if_pos ((atDevice_iff s a).mpr h), ← toNat_and_valueMask]
    simp [State.deviceWrite]
  · rw [if_neg h, if_neg (fun e => h ((atDevice_iff s a).mp e))]

/-- A store is what the device sees of it, then the bytes and units. -/
theorem writeMem_deviceLog (n : Width) (a v : DWord) :
    (s.writeMem n a v).deviceLog = (afterWrite s n.bytes a v).deviceLog := by
  rw [afterWrite_eq]
  unfold State.writeMem
  split <;> simp

/-- What a store leaves alone besides memory and the stale set, all as `afterWrite` has it. -/
theorem afterWrite_keeps (n : Width) (a v : DWord) :
    (∀ p, (afterWrite s n.bytes a v).readPhys p = s.readPhys p) ∧ (afterWrite s n.bytes a v).sr = s.sr ∧
    (∀ x, special (afterWrite s n.bytes a v) x = special s x) ∧
    (∀ b, (afterWrite s n.bytes a v).byteAt b = s.byteAt b) ∧
    (afterWrite s n.bytes a v).icacheStale = s.icacheStale ∧ (afterWrite s n.bytes a v).sleeping = s.sleeping ∧
    (afterWrite s n.bytes a v).lastCause = s.lastCause ∧ (afterWrite s n.bytes a v).irqs = s.irqs ∧
    (afterWrite s n.bytes a v).deviceInput = s.deviceInput ∧ (afterWrite s n.bytes a v).cfg = s.cfg := by
  rw [afterWrite_eq]
  split
  · refine ⟨fun p => by simp, rfl, fun x => by cases x <;> rfl, fun b => by simp, rfl, rfl, rfl, rfl, rfl, rfl⟩
  · refine ⟨fun _ => rfl, rfl, fun _ => rfl, fun _ => rfl, rfl, rfl, rfl, rfl, rfl, rfl⟩

/-- What a load delivers (R77). -/
theorem loaded_eq (n : Width) (a : DWord) : loaded s n.bytes a = extendLoad n (s.loadValue n a) := by
  unfold loaded
  rw [valueAt_eq]
  cases n
  · simp only [extendLoad, sext8, Width.bytes]; congr 1
  · simp only [extendLoad, sext16, Width.bytes]; congr 1
  · simp [extendLoad, Width.bytes]

/-- A load into a register (R77). -/
theorem loadTo_loads (w : Width) (ea : DWord) (n : Reg) (h : Answered s w.bytes ea) :
    ∃ t, loadTo w ea n s = .next t ∧ Loads s w.bytes ea n t := by
  obtain ⟨ha, hr⟩ := (answered_iff s w ea).mp h
  refine ⟨_, loadTo_next.mpr (.inl ⟨ha, hr, rfl⟩), ?_⟩
  rw [← loaded_eq]
  unfold Loads
  rw [afterRead_eq]
  exact setsReg_advance _ n _

/-- A load through `@Rm+` (R266 to R268). -/
theorem loadIncTo_loadsInc (w : Width) (m n : Reg) (h : Answered s w.bytes (s.reg m)) :
    ∃ t, loadIncTo w m n s = .next t ∧ LoadsInc s w.bytes m n t := by
  obtain ⟨ha, hr⟩ := (answered_iff s w (s.reg m)).mp h
  unfold LoadsInc
  rw [afterRead_eq]
  refine ⟨_, loadIncTo_next.mpr (.inl ⟨ha, hr, rfl⟩), ?_, ?_, ⟨?_, ?_, ?_, ?_, ?_, ?_, ?_, ?_, ?_, ?_, ?_⟩,
    inSequence_advance (by simp) (by simp)⟩
  · simp [loaded_eq]
  · intro hmn; simp [hmn, Width.size]
  · intro p hp; simp at hp; simp [hp]
  · intro i _; simp
  · intro x _; exact special_congr (by simp) x
  all_goals simp

/-- The bytes of a store to memory, by the formula of R72. -/
theorem stored_writeMem (w : Width) (a v : DWord) (k : Nat) (hd : s.atDevice a = false) (hk : k < w.bytes) :
    (s.writeMem w a v).byteAt (a + BitVec.ofNat 32 (weightOffset s w.bytes k)) = v.extractLsb' (8 * k) 8 := by
  have := laneAt_writeMem s w a v k hd hk
  simpa [State.laneAt, weightOffset_eq] using this

/-- The even address of a unit, by division (R49). -/
theorem unitOf_eq (a : DWord) : unitOf a = a.toNat / 2 * 2 := by
  have h0 : unitOf a % 2 = 0 := (unitOf_even a).1
  have h1 : unitOf a / 2 = a.toNat / 2 := by
    have ha := a.isLt
    apply Nat.eq_of_testBit_eq
    intro i
    unfold unitOf
    rw [Nat.testBit_div_two, Nat.testBit_div_two, BitVec.toNat_and, Nat.testBit_and]
    by_cases hi : i + 1 < 32
    · have : (0xFFFFFFFE#32).toNat.testBit (i + 1) = true := by
        have key : ∀ j : Fin 31, (0xFFFFFFFE#32).toNat.testBit (j.val + 1) = true := by decide
        exact key ⟨i, by omega⟩
      rw [this, Bool.and_true]
    · have : a.toNat.testBit (i + 1) = false :=
        Nat.testBit_lt_two_pow (Nat.lt_of_lt_of_le ha (Nat.pow_le_pow_right (by decide) (by omega)))
      simp [this]
  omega

/-- The units an aligned store marks are the ones it touches (R49). -/
theorem mem_unitsOf (w : Width) (a : DWord) (ha : a.toNat % w.bytes = 0) (u : Nat) :
    u ∈ unitsOf w a ↔ u ∈ unitsTouched w.bytes a := by
  have key : ∀ k, k < w.bytes → (a + BitVec.ofNat 32 k).toNat = a.toNat + k :=
    fun k hk => toNat_add_of_aligned w a k ha hk
  unfold unitsTouched
  cases w
  · have h0 := key 0 (by decide)
    rw [Nat.add_zero] at h0
    simp only [unitsOf, unitOf_eq, Width.bytes, List.range_succ, List.range_zero, List.nil_append, List.map_cons,
      List.map_nil, h0]
  · have h1 := key 1 (by decide)
    simp only [Width.bytes] at ha
    simp only [unitsOf, unitOf_eq, Width.bytes, List.range_succ, List.range_zero, List.nil_append, List.cons_append,
      List.map_cons, List.map_nil, List.mem_cons, List.not_mem_nil, or_false, h1]
    simp only [BitVec.add_zero]
    omega
  · have h1 := key 1 (by decide)
    have h2 := key 2 (by decide)
    have h3 := key 3 (by decide)
    have h2' : (a + 2).toNat = a.toNat + 2 := h2
    simp only [Width.bytes] at ha
    simp only [unitsOf, unitOf_eq, Width.bytes, List.range_succ, List.range_zero, List.nil_append, List.cons_append,
      List.map_cons, List.map_nil, List.mem_cons, List.not_mem_nil, or_false, h1, h2, h3, h2']
    simp only [BitVec.add_zero]
    omega

/-- Which bytes and units a store leaves alone, and what it leaves in its own. -/
theorem writeMem_stored (w : Width) (a v : DWord) (h : Answered s w.bytes a) :
    Stored s (s.writeMem w a v) w.bytes a v ∧
      (∀ b, b ∉ bytesStored s w.bytes a → (s.writeMem w a v).byteAt b = s.byteAt b) ∧
      ∀ u, u ∉ unitsTouched w.bytes a → (u ∈ (s.writeMem w a v).icacheStale ↔ u ∈ s.icacheStale) := by
  refine ⟨⟨fun hd k hk => ?_, fun u hu => ?_⟩, fun b hb => ?_, fun u hu => ?_⟩
  · exact stored_writeMem s w a v k (Bool.eq_false_iff.mpr fun e => hd ((atDevice_iff s a).mp e)) hk
  · rw [mem_writeMem_icacheStale, mem_unitsOf w a h.1]; exact .inl hu
  · by_cases hd : s.cfg.kindAt a.toNat = some .device
    · simp [State.writeMem, (atDevice_iff s a).mpr hd]
    · refine byteAt_writeMem_of_ne s w a v b fun k hk e => hb ?_
      unfold bytesStored
      rw [if_neg hd]
      exact List.mem_map.mpr ⟨k, List.mem_range.mpr hk, e.symm⟩
  · rw [mem_writeMem_icacheStale, mem_unitsOf w a h.1]; exact or_iff_right hu

/-- `Stored` looks at memory, the stale set and nothing else. -/
theorem Stored_congr {t u : State} {n : Nat} {a v : DWord} (hm : u.mem = t.mem) (hi : u.icacheStale = t.icacheStale)
    (h : Stored s t n a v) : Stored s u n a v := by
  refine ⟨fun hd k hk => ?_, fun x hx => hi ▸ h.2 x hx⟩
  rw [← h.1 hd k hk]; simp only [State.byteAt, hm]

/-- What a store changes, whatever registers and SR bits change after it. -/
theorem frame_writeMem {t : State} (w : Width) (a v : DWord) (regs : List PhysReg) (srBits : DWord)
    (h : Answered s w.bytes a) (hr : ∀ p, p ∉ regs → t.readPhys p = s.readPhys p)
    (hs : ∀ i, srBits.getLsbD i = false → t.sr.getLsbD i = s.sr.getLsbD i) (hx : ∀ x, special t x = special s x)
    (hm : t.mem = (s.writeMem w a v).mem) (hi : t.icacheStale = (s.writeMem w a v).icacheStale)
    (hk : t.sleeping = s.sleeping ∧ t.lastCause = s.lastCause ∧ t.irqs = s.irqs ∧ t.deviceInput = s.deviceInput ∧
      t.deviceLog = (s.writeMem w a v).deviceLog ∧ t.cfg = s.cfg) :
    Frame (afterWrite s w.bytes a v) t regs srBits [] (bytesStored s w.bytes a) (unitsTouched w.bytes a) := by
  obtain ⟨k1, k2, k3, k4, k5, k6, k7, k8, k9, k10⟩ := afterWrite_keeps s w a v
  obtain ⟨_, h2, h3⟩ := writeMem_stored s w a v h
  obtain ⟨e1, e2, e3, e4, e5, e6⟩ := hk
  refine ⟨fun p hp => by rw [k1, hr p hp], fun i hi => by rw [k2, hs i hi], fun x _ => by rw [k3, hx],
    fun b hb => ?_, fun u hu => ?_, by rw [k6, e1], by rw [k7, e2], by rw [k8, e3], by rw [k9, e4],
    by rw [e5, writeMem_deviceLog], by rw [k10, e6]⟩
  · rw [k4, ← h2 b hb]; simp only [State.byteAt, hm]
  · rw [k5, hi]; exact h3 u hu

/-- A store (R77). -/
theorem storeAt_stores (w : Width) (ea v : DWord) (h : Answered s w.bytes ea) :
    ∃ t, storeAt w ea v s = .next t ∧ Stores s w.bytes ea v t := by
  obtain ⟨ha, hr⟩ := (answered_iff s w ea).mp h
  refine ⟨_, storeAt_next.mpr (.inl ⟨ha, hr, rfl⟩),
    Stored_congr s (by simp) (by simp) (writeMem_stored s w ea v h).1,
    frame_writeMem s w ea v _ _ h (fun p _ => by simp) (fun i _ => by simp) (special_congr (by simp)) (by simp)
      (by simp) (by simp), inSequence_advance (by simp) (by simp)⟩

/-- A store through `@-Rn` (R251 to R253). -/
theorem storeDecAt_storesDec (w : Width) (n : Reg) (v : DWord) (h : Answered s w.bytes (s.reg n - w.size)) :
    ∃ t, storeDecAt w n v s = .next t ∧ StoresDec s w.bytes n (s.reg n - w.size) v t := by
  obtain ⟨ha, hr⟩ := (answered_iff s w _).mp h
  refine ⟨_, storeDecAt_next.mpr (.inl ⟨ha, hr, rfl⟩),
    Stored_congr s (by simp) (by simp) (writeMem_stored s w _ v h).1, by simp,
    frame_writeMem s w _ v _ _ h (fun p hp => ?_) (fun i _ => by simp) (special_congr (by simp)) (by simp) (by simp)
      (by simp), inSequence_advance (by simp) (by simp)⟩
  simp at hp; simp [hp]

/-- A delayed branch is a frame (R200). -/
theorem delayed_delayedBranch (target : DWord) : Delayed s target none (s.delayedBranch target) := by
  refine ⟨rfl, rfl, fun v hv => by simp at hv, ⟨?_, ?_, ?_, ?_, ?_, ?_, ?_, ?_, ?_, ?_, ?_⟩⟩
  · intro p _; simp
  · intro i _; simp
  · intro x _; exact special_congr (by simp) x
  all_goals simp

/-- A call is a frame (R200). -/
theorem delayed_call (target link : DWord) :
    Delayed s target (some link) ({ s with pr := link }.delayedBranch target) := by
  refine ⟨rfl, rfl, fun v hv => by simp at hv; simp [hv], ⟨?_, ?_, ?_, ?_, ?_, ?_, ?_, ?_, ?_, ?_, ?_⟩⟩
  · intro p _; cases p <;> simp [State.readPhys]
  · intro i _; simp
  · intro x hx; cases x <;> simp_all [special]
  · intro a _; simp [State.byteAt]
  all_goals simp

/-- A jump is a frame (R200). -/
theorem jumps_jump (target : DWord) (h : s.delayTarget = none) : Jumps s target (s.jump target) := by
  refine ⟨rfl, by simp [h], ⟨?_, ?_, ?_, ?_, ?_, ?_, ?_, ?_, ?_, ?_, ?_⟩⟩
  · intro p _; simp
  · intro i _; simp
  · intro x _; exact special_congr (by simp) x
  all_goals simp

end Sys2Proof.Claim
end

