-- ==== Sys2Proof/Laws/Decode.lean ====
section
/-! SUPPORT. The fields of a word built from its parts (R6, R111), for proofs that decode what the encoder wrote. -/

namespace Sys2Proof

variable (a b c d : BitVec 4) (e : BitVec 8) (f : BitVec 12)

@[simp] theorem nib3_word4444 : nib3 (word4444 a b c d) = a := by
  ext i hi; simp only [nib3, word4444, BitVec.getElem_extractLsb', BitVec.getLsbD_append]
  have h1 : ¬12 + i < 4 := by omega
  have h2 : ¬12 + i - 4 < 4 := by omega
  have h3 : ¬12 + i - 4 - 4 < 4 := by omega
  have h4 : 12 + i - 4 - 4 - 4 = i := by omega
  simp [h1, h2, h3, h4, hi]
@[simp] theorem nib2_word4444 : nib2 (word4444 a b c d) = b := by
  ext i hi; simp only [nib2, word4444, BitVec.getElem_extractLsb', BitVec.getLsbD_append]
  have h1 : ¬8 + i < 4 := by omega
  have h2 : ¬8 + i - 4 < 4 := by omega
  have h3 : 8 + i - 4 - 4 = i := by omega
  simp [h1, h2, h3, hi]
@[simp] theorem nib1_word4444 : nib1 (word4444 a b c d) = c := by
  ext i hi; simp only [nib1, word4444, BitVec.getElem_extractLsb', BitVec.getLsbD_append]
  have h1 : ¬4 + i < 4 := by omega
  have h2 : 4 + i - 4 = i := by omega
  simp [h1, h2, hi]
@[simp] theorem nib0_word4444 : nib0 (word4444 a b c d) = d := by
  ext i hi; simp only [nib0, word4444, BitVec.getElem_extractLsb', BitVec.getLsbD_append, Nat.zero_add]; simp [hi]
@[simp] theorem nib3_word448 : nib3 (word448 a b e) = a := by
  ext i hi; simp only [nib3, word448, BitVec.getElem_extractLsb', BitVec.getLsbD_append]
  have h1 : ¬12 + i < 8 := by omega
  have h2 : ¬12 + i - 8 < 4 := by omega
  have h3 : 12 + i - 8 - 4 = i := by omega
  simp [h1, h2, h3, hi]
@[simp] theorem nib2_word448 : nib2 (word448 a b e) = b := by
  ext i hi; simp only [nib2, word448, BitVec.getElem_extractLsb', BitVec.getLsbD_append]
  have h1 : ¬8 + i < 8 := by omega
  have h2 : 8 + i - 8 = i := by omega
  simp [h1, h2, hi]
@[simp] theorem low8_word448 : low8 (word448 a b e) = e := by
  ext i hi; simp only [low8, word448, BitVec.getElem_extractLsb', BitVec.getLsbD_append, Nat.zero_add]; simp [hi]
@[simp] theorem nib3_word412 : nib3 (word412 a f) = a := by
  ext i hi; simp only [nib3, word412, BitVec.getElem_extractLsb', BitVec.getLsbD_append]
  have h1 : ¬12 + i < 12 := by omega
  have h2 : 12 + i - 12 = i := by omega
  simp [h1, h2, hi]
@[simp] theorem low12_word412 : low12 (word412 a f) = f := by
  ext i hi; simp only [low12, word412, BitVec.getElem_extractLsb', BitVec.getLsbD_append, Nat.zero_add]; simp [hi]

/-- The two bytes of a word put together again, in either byte order (R73). -/
@[simp] theorem wordOfBytes_bytesOfWord (o : Endian) (w : Word) :
    wordOfBytes o (bytesOfWord o w).1 (bytesOfWord o w).2 = w := by
  have key : w.extractLsb' 8 8 ++ w.extractLsb' 0 8 = w := by
    apply BitVec.eq_of_getLsbD_eq
    intro i hi
    rw [BitVec.getLsbD_append]
    by_cases h : i < 8
    · simp [h]
    · have h2 : i - 8 < 8 := by omega
      have h3 : 8 + (i - 8) = i := by omega
      simp [h, h2, h3]
  cases o <;> exact key

end Sys2Proof
end

