-- ==== Sys2Proof/WellFormed.lean ====
section
/-! DEFINITION. Which instructions the spec gives a meaning of their own: an implemented row (R115) whose index
operand names a register (R43, R44). Field widths need no check: `Instr` holds each field at its encoded width. An
instruction that is not well formed still runs: it raises `IllegalInstruction` or `SlotIllegalInstruction`
(R130, R131, R423). -/

namespace Sys2Proof

/-- The source names a register at this index of the SYS table (R43). FPUL and FPSCR are named there; whether they
exist is `HAS_FPU_REGS` (R45). -/
def sysNamed (i : SysIdx) : Bool :=
  i = 0 || i = 1 || i = 2 || i = 3 || i = 5 || i = 6 || i = 15

/-- The CR table gives this index a value to read: not CR5 or CR6 (R44, R160). -/
def ctrlReadable (i : CtrlIdx) : Bool :=
  !(i = 5 || i = 6)

/-- The CR table gives a write of this index an effect: not CR5, CR6 or CR7 (R44, R161). -/
def ctrlWritable (i : CtrlIdx) : Bool :=
  !(i = 5 || i = 6 || i = 7)

/-- Well-formed: an implemented row (status of `opcode_table.json`) whose index operand, if any, has a meaning. -/
def Instr.wellFormed : Instr → Bool
  | .stc m _ => ctrlReadable m
  | .sts m _ => sysNamed m
  | .stsl m _ => sysNamed m
  | .stcl m _ => ctrlReadable m
  | .ldsl _ o => sysNamed o
  | .ldcl _ o => ctrlWritable o
  | .lds _ o => sysNamed o
  | .ldc _ o => ctrlWritable o
  | .clrt => true
  | .sett => true
  | .clrmac => true
  | .clrs => true
  | .sets => true
  | .nott => true
  | .nop _ => true
  | .movt _ => true
  | .movrt _ => true
  | .bsrf _ => true
  | .braf _ => true
  | .rts => true
  | .rtsN => true
  | .jsr _ => true
  | .jmp _ => true
  | .braN _ => true
  | .bt _ => true
  | .bf _ => true
  | .bts _ => true
  | .bfs _ => true
  | .bra _ => true
  | .bsr _ => true
  | .pref _ => true
  | .movcal _ => true
  | .icbi _ => true
  | .casl _ _ => true
  | .movbStoreR0 _ _ => true
  | .movwStoreR0 _ _ => true
  | .movlStoreR0 _ _ => true
  | .movbLoadR0 _ _ => true
  | .movwLoadR0 _ _ => true
  | .movlLoadR0 _ _ => true
  | .movlStoreDisp _ _ _ => true
  | .movbStore _ _ => true
  | .movwStore _ _ => true
  | .movlStore _ _ => true
  | .movbStoreDec _ _ => true
  | .movwStoreDec _ _ => true
  | .movlStoreDec _ _ => true
  | .movbStorePc _ => true
  | .movwStorePc _ => true
  | .movlStorePc _ => true
  | .movbLoadPc _ => true
  | .movwLoadPc _ => true
  | .movlLoadPc _ => true
  | .leab _ => true
  | .movlLoadDisp _ _ _ => true
  | .movbLoad _ _ => true
  | .movwLoad _ _ => true
  | .movlLoad _ _ => true
  | .mov _ _ => true
  | .movbLoadInc _ _ => true
  | .movwLoadInc _ _ => true
  | .movlLoadInc _ _ => true
  | .movbStoreDisp _ _ => true
  | .movwStoreDisp _ _ => true
  | .movbLoadDisp _ _ => true
  | .movwLoadDisp _ _ => true
  | .movwLoadPcDisp _ _ => true
  | .movbStoreGbr _ => true
  | .movwStoreGbr _ => true
  | .movlStoreGbr _ => true
  | .movbLoadGbr _ => true
  | .movwLoadGbr _ => true
  | .movlLoadGbr _ => true
  | .mova _ => true
  | .movlLoadPcDisp _ _ => true
  | .movImm _ _ => true
  | .mull _ _ => true
  | .muluw _ _ => true
  | .mulsw _ _ => true
  | .dmulul _ _ => true
  | .dmulsl _ _ => true
  | .div0u => true
  | .div0s _ _ => true
  | .div1 _ _ => true
  | .tst _ _ => true
  | .and _ _ => true
  | .xor _ _ => true
  | .or _ _ => true
  | .not _ _ => true
  | .tstImm _ => true
  | .andImm _ => true
  | .xorImm _ => true
  | .orImm _ => true
  | .cmpstr _ _ => true
  | .cmpeq _ _ => true
  | .cmphs _ _ => true
  | .cmpge _ _ => true
  | .cmphi _ _ => true
  | .cmpgt _ _ => true
  | .cmppz _ => true
  | .cmppl _ => true
  | .cmpeqImm _ => true
  | .sub _ _ => true
  | .subc _ _ => true
  | .subv _ _ => true
  | .add _ _ => true
  | .addc _ _ => true
  | .addv _ _ => true
  | .addImm _ _ => true
  | .neg _ _ => true
  | .negc _ _ => true
  | .dt _ => true
  | .extub _ _ => true
  | .extuw _ _ => true
  | .extsb _ _ => true
  | .extsw _ _ => true
  | .swapb _ _ => true
  | .swapw _ _ => true
  | .xtrct _ _ => true
  | .shll _ => true
  | .shal _ => true
  | .shlr _ => true
  | .shar _ => true
  | .rotl _ => true
  | .rotr _ => true
  | .rotcl _ => true
  | .rotcr _ => true
  | .shll2 _ => true
  | .shll8 _ => true
  | .shll16 _ => true
  | .shlr2 _ => true
  | .shlr8 _ => true
  | .shlr16 _ => true
  | .shll4 _ => true
  | .shlr4 _ => true
  | .shad _ _ => true
  | .shld _ _ => true
  | .trapa _ => true
  | .rte => true
  | .sleep => true
  | .brk => true
  | .ldtlb => false
  | .movual _ => false
  | .movualDec _ => false
  | .jsrN _ => false
  | .rtvN _ => false

end Sys2Proof
end

