-- ==== Sys2Proof/Laws/PerInstr.lean ====
section
/-! SUPPORT. The family TableRow: each instruction's word has its row's fixed bits, `(w & mask) = match` (R115, the
numbers of `opcode_table.json`). -/

namespace Sys2Proof.Laws.TableRow

/-- The mask of the instruction's row (R115). -/
def rowMask : Instr → Word
  | .stc _ _ => 0xF00F
  | .sts _ _ => 0xF00F
  | .stsl _ _ => 0xF00F
  | .stcl _ _ => 0xF00F
  | .ldsl _ _ => 0xF00F
  | .ldcl _ _ => 0xF00F
  | .lds _ _ => 0xF00F
  | .ldc _ _ => 0xF00F
  | .clrt => 0xFFFF
  | .sett => 0xFFFF
  | .clrmac => 0xFFFF
  | .clrs => 0xFFFF
  | .sets => 0xFFFF
  | .nott => 0xFFFF
  | .nop _ => 0xF0FF
  | .movt _ => 0xF0FF
  | .movrt _ => 0xF0FF
  | .bsrf _ => 0xF0FF
  | .braf _ => 0xF0FF
  | .rts => 0xFFFF
  | .rtsN => 0xFFFF
  | .jsr _ => 0xF0FF
  | .jmp _ => 0xF0FF
  | .braN _ => 0xFF00
  | .bt _ => 0xFF00
  | .bf _ => 0xFF00
  | .bts _ => 0xFF00
  | .bfs _ => 0xFF00
  | .bra _ => 0xF000
  | .bsr _ => 0xF000
  | .pref _ => 0xF0FF
  | .movcal _ => 0xF0FF
  | .icbi _ => 0xF0FF
  | .casl _ _ => 0xF00F
  | .movbStoreR0 _ _ => 0xF00F
  | .movwStoreR0 _ _ => 0xF00F
  | .movlStoreR0 _ _ => 0xF00F
  | .movbLoadR0 _ _ => 0xF00F
  | .movwLoadR0 _ _ => 0xF00F
  | .movlLoadR0 _ _ => 0xF00F
  | .movlStoreDisp _ _ _ => 0xF000
  | .movbStore _ _ => 0xF00F
  | .movwStore _ _ => 0xF00F
  | .movlStore _ _ => 0xF00F
  | .movbStoreDec _ _ => 0xF00F
  | .movwStoreDec _ _ => 0xF00F
  | .movlStoreDec _ _ => 0xF00F
  | .movbStorePc _ => 0xF0FF
  | .movwStorePc _ => 0xF0FF
  | .movlStorePc _ => 0xF0FF
  | .movbLoadPc _ => 0xF0FF
  | .movwLoadPc _ => 0xF0FF
  | .movlLoadPc _ => 0xF0FF
  | .leab _ => 0xF0FF
  | .movlLoadDisp _ _ _ => 0xF000
  | .movbLoad _ _ => 0xF00F
  | .movwLoad _ _ => 0xF00F
  | .movlLoad _ _ => 0xF00F
  | .mov _ _ => 0xF00F
  | .movbLoadInc _ _ => 0xF00F
  | .movwLoadInc _ _ => 0xF00F
  | .movlLoadInc _ _ => 0xF00F
  | .movbStoreDisp _ _ => 0xFF00
  | .movwStoreDisp _ _ => 0xFF00
  | .movbLoadDisp _ _ => 0xFF00
  | .movwLoadDisp _ _ => 0xFF00
  | .movwLoadPcDisp _ _ => 0xF000
  | .movbStoreGbr _ => 0xFF00
  | .movwStoreGbr _ => 0xFF00
  | .movlStoreGbr _ => 0xFF00
  | .movbLoadGbr _ => 0xFF00
  | .movwLoadGbr _ => 0xFF00
  | .movlLoadGbr _ => 0xFF00
  | .mova _ => 0xFF00
  | .movlLoadPcDisp _ _ => 0xF000
  | .movImm _ _ => 0xF000
  | .mull _ _ => 0xF00F
  | .muluw _ _ => 0xF00F
  | .mulsw _ _ => 0xF00F
  | .dmulul _ _ => 0xF00F
  | .dmulsl _ _ => 0xF00F
  | .div0u => 0xFFFF
  | .div0s _ _ => 0xF00F
  | .div1 _ _ => 0xF00F
  | .tst _ _ => 0xF00F
  | .and _ _ => 0xF00F
  | .xor _ _ => 0xF00F
  | .or _ _ => 0xF00F
  | .not _ _ => 0xF00F
  | .tstImm _ => 0xFF00
  | .andImm _ => 0xFF00
  | .xorImm _ => 0xFF00
  | .orImm _ => 0xFF00
  | .cmpstr _ _ => 0xF00F
  | .cmpeq _ _ => 0xF00F
  | .cmphs _ _ => 0xF00F
  | .cmpge _ _ => 0xF00F
  | .cmphi _ _ => 0xF00F
  | .cmpgt _ _ => 0xF00F
  | .cmppz _ => 0xF0FF
  | .cmppl _ => 0xF0FF
  | .cmpeqImm _ => 0xFF00
  | .sub _ _ => 0xF00F
  | .subc _ _ => 0xF00F
  | .subv _ _ => 0xF00F
  | .add _ _ => 0xF00F
  | .addc _ _ => 0xF00F
  | .addv _ _ => 0xF00F
  | .addImm _ _ => 0xF000
  | .neg _ _ => 0xF00F
  | .negc _ _ => 0xF00F
  | .dt _ => 0xF0FF
  | .extub _ _ => 0xF00F
  | .extuw _ _ => 0xF00F
  | .extsb _ _ => 0xF00F
  | .extsw _ _ => 0xF00F
  | .swapb _ _ => 0xF00F
  | .swapw _ _ => 0xF00F
  | .xtrct _ _ => 0xF00F
  | .shll _ => 0xF0FF
  | .shal _ => 0xF0FF
  | .shlr _ => 0xF0FF
  | .shar _ => 0xF0FF
  | .rotl _ => 0xF0FF
  | .rotr _ => 0xF0FF
  | .rotcl _ => 0xF0FF
  | .rotcr _ => 0xF0FF
  | .shll2 _ => 0xF0FF
  | .shll8 _ => 0xF0FF
  | .shll16 _ => 0xF0FF
  | .shlr2 _ => 0xF0FF
  | .shlr8 _ => 0xF0FF
  | .shlr16 _ => 0xF0FF
  | .shll4 _ => 0xF0FF
  | .shlr4 _ => 0xF0FF
  | .shad _ _ => 0xF00F
  | .shld _ _ => 0xF00F
  | .trapa _ => 0xFF00
  | .rte => 0xFFFF
  | .sleep => 0xFFFF
  | .brk => 0xFFFF
  | .ldtlb => 0xFFFF
  | .movual _ => 0xF0FF
  | .movualDec _ => 0xF0FF
  | .jsrN _ => 0xF0FF
  | .rtvN _ => 0xF0FF

/-- The match of the instruction's row (R115). -/
def rowMatch : Instr → Word
  | .stc _ _ => 0x0002
  | .sts _ _ => 0x000A
  | .stsl _ _ => 0x4002
  | .stcl _ _ => 0x4003
  | .ldsl _ _ => 0x4006
  | .ldcl _ _ => 0x4007
  | .lds _ _ => 0x400A
  | .ldc _ _ => 0x400E
  | .clrt => 0x0008
  | .sett => 0x0018
  | .clrmac => 0x0028
  | .clrs => 0x0048
  | .sets => 0x0058
  | .nott => 0x0068
  | .nop _ => 0x0009
  | .movt _ => 0x0029
  | .movrt _ => 0x0039
  | .bsrf _ => 0x0003
  | .braf _ => 0x0023
  | .rts => 0x000B
  | .rtsN => 0x006B
  | .jsr _ => 0x400B
  | .jmp _ => 0x402B
  | .braN _ => 0x8200
  | .bt _ => 0x8900
  | .bf _ => 0x8B00
  | .bts _ => 0x8D00
  | .bfs _ => 0x8F00
  | .bra _ => 0xA000
  | .bsr _ => 0xB000
  | .pref _ => 0x0083
  | .movcal _ => 0x00C3
  | .icbi _ => 0x00E3
  | .casl _ _ => 0x2003
  | .movbStoreR0 _ _ => 0x0004
  | .movwStoreR0 _ _ => 0x0005
  | .movlStoreR0 _ _ => 0x0006
  | .movbLoadR0 _ _ => 0x000C
  | .movwLoadR0 _ _ => 0x000D
  | .movlLoadR0 _ _ => 0x000E
  | .movlStoreDisp _ _ _ => 0x1000
  | .movbStore _ _ => 0x2000
  | .movwStore _ _ => 0x2001
  | .movlStore _ _ => 0x2002
  | .movbStoreDec _ _ => 0x2004
  | .movwStoreDec _ _ => 0x2005
  | .movlStoreDec _ _ => 0x2006
  | .movbStorePc _ => 0x40C1
  | .movwStorePc _ => 0x40D1
  | .movlStorePc _ => 0x40E1
  | .movbLoadPc _ => 0x40C5
  | .movwLoadPc _ => 0x40D5
  | .movlLoadPc _ => 0x40E5
  | .leab _ => 0x40F5
  | .movlLoadDisp _ _ _ => 0x5000
  | .movbLoad _ _ => 0x6000
  | .movwLoad _ _ => 0x6001
  | .movlLoad _ _ => 0x6002
  | .mov _ _ => 0x6003
  | .movbLoadInc _ _ => 0x6004
  | .movwLoadInc _ _ => 0x6005
  | .movlLoadInc _ _ => 0x6006
  | .movbStoreDisp _ _ => 0x8000
  | .movwStoreDisp _ _ => 0x8100
  | .movbLoadDisp _ _ => 0x8400
  | .movwLoadDisp _ _ => 0x8500
  | .movwLoadPcDisp _ _ => 0x9000
  | .movbStoreGbr _ => 0xC000
  | .movwStoreGbr _ => 0xC100
  | .movlStoreGbr _ => 0xC200
  | .movbLoadGbr _ => 0xC400
  | .movwLoadGbr _ => 0xC500
  | .movlLoadGbr _ => 0xC600
  | .mova _ => 0xC700
  | .movlLoadPcDisp _ _ => 0xD000
  | .movImm _ _ => 0xE000
  | .mull _ _ => 0x0007
  | .muluw _ _ => 0x200E
  | .mulsw _ _ => 0x200F
  | .dmulul _ _ => 0x3005
  | .dmulsl _ _ => 0x300D
  | .div0u => 0x0019
  | .div0s _ _ => 0x2007
  | .div1 _ _ => 0x3004
  | .tst _ _ => 0x2008
  | .and _ _ => 0x2009
  | .xor _ _ => 0x200A
  | .or _ _ => 0x200B
  | .not _ _ => 0x6007
  | .tstImm _ => 0xC800
  | .andImm _ => 0xC900
  | .xorImm _ => 0xCA00
  | .orImm _ => 0xCB00
  | .cmpstr _ _ => 0x200C
  | .cmpeq _ _ => 0x3000
  | .cmphs _ _ => 0x3002
  | .cmpge _ _ => 0x3003
  | .cmphi _ _ => 0x3006
  | .cmpgt _ _ => 0x3007
  | .cmppz _ => 0x4011
  | .cmppl _ => 0x4015
  | .cmpeqImm _ => 0x8800
  | .sub _ _ => 0x3008
  | .subc _ _ => 0x300A
  | .subv _ _ => 0x300B
  | .add _ _ => 0x300C
  | .addc _ _ => 0x300E
  | .addv _ _ => 0x300F
  | .addImm _ _ => 0x7000
  | .neg _ _ => 0x600B
  | .negc _ _ => 0x600A
  | .dt _ => 0x4010
  | .extub _ _ => 0x600C
  | .extuw _ _ => 0x600D
  | .extsb _ _ => 0x600E
  | .extsw _ _ => 0x600F
  | .swapb _ _ => 0x6008
  | .swapw _ _ => 0x6009
  | .xtrct _ _ => 0x200D
  | .shll _ => 0x4000
  | .shal _ => 0x4020
  | .shlr _ => 0x4001
  | .shar _ => 0x4021
  | .rotl _ => 0x4004
  | .rotr _ => 0x4005
  | .rotcl _ => 0x4024
  | .rotcr _ => 0x4025
  | .shll2 _ => 0x4008
  | .shll8 _ => 0x4018
  | .shll16 _ => 0x4028
  | .shlr2 _ => 0x4009
  | .shlr8 _ => 0x4019
  | .shlr16 _ => 0x4029
  | .shll4 _ => 0x4034
  | .shlr4 _ => 0x4035
  | .shad _ _ => 0x400C
  | .shld _ _ => 0x400D
  | .trapa _ => 0xC300
  | .rte => 0x002B
  | .sleep => 0x001B
  | .brk => 0x003B
  | .ldtlb => 0x0038
  | .movual _ => 0x00A9
  | .movualDec _ => 0x00E9
  | .jsrN _ => 0x404B
  | .rtvN _ => 0x007B

/-- The word the encoder writes matches the row of its instruction (R115). -/
def Statement (i : Instr) : Prop := encode i &&& rowMask i = rowMatch i

/-- A bit of a word under a mask. -/
theorem word_eq_of_nibbles (v w : Word) (h3 : nib3 v = nib3 w) (h2 : nib2 v = nib2 w) (h1 : nib1 v = nib1 w)
    (h0 : nib0 v = nib0 w) : v = w := by
  ext i hi
  have key : ∀ lo : Nat, v.extractLsb' lo 4 = w.extractLsb' lo 4 → ∀ k, k < 4 → v.getLsbD (lo + k) = w.getLsbD (lo + k) := by
    intro lo h k hk
    have := congrArg (fun x => x.getLsbD k) h
    simpa [hk] using this
  rw [← BitVec.getLsbD_eq_getElem, ← BitVec.getLsbD_eq_getElem]
  have hc : i = 0 + i ∧ i < 4 ∨ i = 4 + (i - 4) ∧ i - 4 < 4 ∨ i = 8 + (i - 8) ∧ i - 8 < 4 ∨ i = 12 + (i - 12) ∧ i - 12 < 4 := by
    omega
  rcases hc with ⟨e, hk⟩ | ⟨e, hk⟩ | ⟨e, hk⟩ | ⟨e, hk⟩ <;> rw [e]
  · exact key 0 h0 _ hk
  · exact key 4 h1 _ hk
  · exact key 8 h2 _ hk
  · exact key 12 h3 _ hk

/-- Masking acts on each nibble. -/
theorem nibs_and (v w : Word) :
    nib3 (v &&& w) = nib3 v &&& nib3 w ∧ nib2 (v &&& w) = nib2 v &&& nib2 w ∧
      nib1 (v &&& w) = nib1 v &&& nib1 w ∧ nib0 (v &&& w) = nib0 v &&& nib0 w := by
  simp [nib3, nib2, nib1, nib0, BitVec.extractLsb'_and]

/-- A word of four nibbles under a mask of whole nibbles. -/
theorem mask4444 (a b c d : BitVec 4) (k r : Word)
    (h : a &&& nib3 k = nib3 r ∧ b &&& nib2 k = nib2 r ∧ c &&& nib1 k = nib1 r ∧ d &&& nib0 k = nib0 r) :
    word4444 a b c d &&& k = r := by
  have n := nibs_and (word4444 a b c d) k
  exact word_eq_of_nibbles _ _ (by rw [n.1]; simpa using h.1) (by rw [n.2.1]; simpa using h.2.1)
    (by rw [n.2.2.1]; simpa using h.2.2.1) (by rw [n.2.2.2]; simpa using h.2.2.2)

/-- A word of two nibbles and a byte under a mask that drops the byte. -/
theorem mask448 (a b : BitVec 4) (e : BitVec 8) (k r : Word)
    (h : a &&& nib3 k = nib3 r ∧ b &&& nib2 k = nib2 r ∧ nib1 k = 0 ∧ nib0 k = 0 ∧ nib1 r = 0 ∧ nib0 r = 0) :
    word448 a b e &&& k = r := by
  have n := nibs_and (word448 a b e) k
  exact word_eq_of_nibbles _ _ (by rw [n.1]; simpa using h.1) (by rw [n.2.1]; simpa using h.2.1)
    (by rw [n.2.2.1, h.2.2.1, h.2.2.2.2.1]; simp) (by rw [n.2.2.2, h.2.2.2.1, h.2.2.2.2.2]; simp)

/-- A word of one nibble and a 12-bit field under a mask that drops the field. -/
theorem mask412 (a : BitVec 4) (f : BitVec 12) (k r : Word)
    (h : a &&& nib3 k = nib3 r ∧ nib2 k = 0 ∧ nib1 k = 0 ∧ nib0 k = 0 ∧ nib2 r = 0 ∧ nib1 r = 0 ∧ nib0 r = 0) :
    word412 a f &&& k = r := by
  have n := nibs_and (word412 a f) k
  exact word_eq_of_nibbles _ _ (by rw [n.1]; simpa using h.1) (by rw [n.2.1, h.2.1, h.2.2.2.2.1]; simp)
    (by rw [n.2.2.1, h.2.2.1, h.2.2.2.2.2.1]; simp) (by rw [n.2.2.2, h.2.2.2.1, h.2.2.2.2.2.2]; simp)

theorem stc (m : CtrlIdx) (n : Reg) : Statement (.stc m n) := mask4444 _ _ _ _ 0xF00F#16 0x0002#16 (by revert n m; decide)
theorem sts (m : SysIdx) (n : Reg) : Statement (.sts m n) := mask4444 _ _ _ _ 0xF00F#16 0x000A#16 (by revert n m; decide)
theorem stsl (m : SysIdx) (n : Reg) : Statement (.stsl m n) := mask4444 _ _ _ _ 0xF00F#16 0x4002#16 (by revert n m; decide)
theorem stcl (m : CtrlIdx) (n : Reg) : Statement (.stcl m n) := mask4444 _ _ _ _ 0xF00F#16 0x4003#16 (by revert n m; decide)
theorem ldsl (m : Reg) (o : SysIdx) : Statement (.ldsl m o) := mask4444 _ _ _ _ 0xF00F#16 0x4006#16 (by revert m o; decide)
theorem ldcl (m : Reg) (o : CtrlIdx) : Statement (.ldcl m o) := mask4444 _ _ _ _ 0xF00F#16 0x4007#16 (by revert m o; decide)
theorem lds (m : Reg) (o : SysIdx) : Statement (.lds m o) := mask4444 _ _ _ _ 0xF00F#16 0x400A#16 (by revert m o; decide)
theorem ldc (m : Reg) (o : CtrlIdx) : Statement (.ldc m o) := mask4444 _ _ _ _ 0xF00F#16 0x400E#16 (by revert m o; decide)
theorem clrt : Statement (.clrt) := mask4444 _ _ _ _ 0xFFFF#16 0x0008#16 (by decide)
theorem sett : Statement (.sett) := mask4444 _ _ _ _ 0xFFFF#16 0x0018#16 (by decide)
theorem clrmac : Statement (.clrmac) := mask4444 _ _ _ _ 0xFFFF#16 0x0028#16 (by decide)
theorem clrs : Statement (.clrs) := mask4444 _ _ _ _ 0xFFFF#16 0x0048#16 (by decide)
theorem sets : Statement (.sets) := mask4444 _ _ _ _ 0xFFFF#16 0x0058#16 (by decide)
theorem nott : Statement (.nott) := mask4444 _ _ _ _ 0xFFFF#16 0x0068#16 (by decide)
theorem nop (i : BitVec 4) : Statement (.nop i) := mask4444 _ _ _ _ 0xF0FF#16 0x0009#16 (by revert i; decide)
theorem movt (n : Reg) : Statement (.movt n) := mask4444 _ _ _ _ 0xF0FF#16 0x0029#16 (by revert n; decide)
theorem movrt (n : Reg) : Statement (.movrt n) := mask4444 _ _ _ _ 0xF0FF#16 0x0039#16 (by revert n; decide)
theorem bsrf (m : Reg) : Statement (.bsrf m) := mask4444 _ _ _ _ 0xF0FF#16 0x0003#16 (by revert m; decide)
theorem braf (m : Reg) : Statement (.braf m) := mask4444 _ _ _ _ 0xF0FF#16 0x0023#16 (by revert m; decide)
theorem rts : Statement (.rts) := mask4444 _ _ _ _ 0xFFFF#16 0x000B#16 (by decide)
theorem rtsN : Statement (.rtsN) := mask4444 _ _ _ _ 0xFFFF#16 0x006B#16 (by decide)
theorem jsr (m : Reg) : Statement (.jsr m) := mask4444 _ _ _ _ 0xF0FF#16 0x400B#16 (by revert m; decide)
theorem jmp (m : Reg) : Statement (.jmp m) := mask4444 _ _ _ _ 0xF0FF#16 0x402B#16 (by revert m; decide)
theorem braN (d : BitVec 8) : Statement (.braN d) := mask448 _ _ _ 0xFF00#16 0x8200#16 (by decide)
theorem bt (d : BitVec 8) : Statement (.bt d) := mask448 _ _ _ 0xFF00#16 0x8900#16 (by decide)
theorem bf (d : BitVec 8) : Statement (.bf d) := mask448 _ _ _ 0xFF00#16 0x8B00#16 (by decide)
theorem bts (d : BitVec 8) : Statement (.bts d) := mask448 _ _ _ 0xFF00#16 0x8D00#16 (by decide)
theorem bfs (d : BitVec 8) : Statement (.bfs d) := mask448 _ _ _ 0xFF00#16 0x8F00#16 (by decide)
theorem bra (d : BitVec 12) : Statement (.bra d) := mask412 _ _ 0xF000#16 0xA000#16 (by decide)
theorem bsr (d : BitVec 12) : Statement (.bsr d) := mask412 _ _ 0xF000#16 0xB000#16 (by decide)
theorem pref (n : Reg) : Statement (.pref n) := mask4444 _ _ _ _ 0xF0FF#16 0x0083#16 (by revert n; decide)
theorem movcal (n : Reg) : Statement (.movcal n) := mask4444 _ _ _ _ 0xF0FF#16 0x00C3#16 (by revert n; decide)
theorem icbi (n : Reg) : Statement (.icbi n) := mask4444 _ _ _ _ 0xF0FF#16 0x00E3#16 (by revert n; decide)
theorem casl (m : Reg) (n : Reg) : Statement (.casl m n) := mask4444 _ _ _ _ 0xF00F#16 0x2003#16 (by revert n m; decide)
theorem movbStoreR0 (m : Reg) (n : Reg) : Statement (.movbStoreR0 m n) := mask4444 _ _ _ _ 0xF00F#16 0x0004#16 (by revert n m; decide)
theorem movwStoreR0 (m : Reg) (n : Reg) : Statement (.movwStoreR0 m n) := mask4444 _ _ _ _ 0xF00F#16 0x0005#16 (by revert n m; decide)
theorem movlStoreR0 (m : Reg) (n : Reg) : Statement (.movlStoreR0 m n) := mask4444 _ _ _ _ 0xF00F#16 0x0006#16 (by revert n m; decide)
theorem movbLoadR0 (m : Reg) (n : Reg) : Statement (.movbLoadR0 m n) := mask4444 _ _ _ _ 0xF00F#16 0x000C#16 (by revert n m; decide)
theorem movwLoadR0 (m : Reg) (n : Reg) : Statement (.movwLoadR0 m n) := mask4444 _ _ _ _ 0xF00F#16 0x000D#16 (by revert n m; decide)
theorem movlLoadR0 (m : Reg) (n : Reg) : Statement (.movlLoadR0 m n) := mask4444 _ _ _ _ 0xF00F#16 0x000E#16 (by revert n m; decide)
theorem movlStoreDisp (m : Reg) (n : Reg) (d : BitVec 4) : Statement (.movlStoreDisp m n d) := mask4444 _ _ _ _ 0xF000#16 0x1000#16 (by revert n m d; decide)
theorem movbStore (m : Reg) (n : Reg) : Statement (.movbStore m n) := mask4444 _ _ _ _ 0xF00F#16 0x2000#16 (by revert n m; decide)
theorem movwStore (m : Reg) (n : Reg) : Statement (.movwStore m n) := mask4444 _ _ _ _ 0xF00F#16 0x2001#16 (by revert n m; decide)
theorem movlStore (m : Reg) (n : Reg) : Statement (.movlStore m n) := mask4444 _ _ _ _ 0xF00F#16 0x2002#16 (by revert n m; decide)
theorem movbStoreDec (m : Reg) (n : Reg) : Statement (.movbStoreDec m n) := mask4444 _ _ _ _ 0xF00F#16 0x2004#16 (by revert n m; decide)
theorem movwStoreDec (m : Reg) (n : Reg) : Statement (.movwStoreDec m n) := mask4444 _ _ _ _ 0xF00F#16 0x2005#16 (by revert n m; decide)
theorem movlStoreDec (m : Reg) (n : Reg) : Statement (.movlStoreDec m n) := mask4444 _ _ _ _ 0xF00F#16 0x2006#16 (by revert n m; decide)
theorem movbStorePc (m : Reg) : Statement (.movbStorePc m) := mask4444 _ _ _ _ 0xF0FF#16 0x40C1#16 (by revert m; decide)
theorem movwStorePc (m : Reg) : Statement (.movwStorePc m) := mask4444 _ _ _ _ 0xF0FF#16 0x40D1#16 (by revert m; decide)
theorem movlStorePc (m : Reg) : Statement (.movlStorePc m) := mask4444 _ _ _ _ 0xF0FF#16 0x40E1#16 (by revert m; decide)
theorem movbLoadPc (n : Reg) : Statement (.movbLoadPc n) := mask4444 _ _ _ _ 0xF0FF#16 0x40C5#16 (by revert n; decide)
theorem movwLoadPc (n : Reg) : Statement (.movwLoadPc n) := mask4444 _ _ _ _ 0xF0FF#16 0x40D5#16 (by revert n; decide)
theorem movlLoadPc (n : Reg) : Statement (.movlLoadPc n) := mask4444 _ _ _ _ 0xF0FF#16 0x40E5#16 (by revert n; decide)
theorem leab (n : Reg) : Statement (.leab n) := mask4444 _ _ _ _ 0xF0FF#16 0x40F5#16 (by revert n; decide)
theorem movlLoadDisp (m : Reg) (d : BitVec 4) (n : Reg) : Statement (.movlLoadDisp m d n) := mask4444 _ _ _ _ 0xF000#16 0x5000#16 (by revert n m d; decide)
theorem movbLoad (m : Reg) (n : Reg) : Statement (.movbLoad m n) := mask4444 _ _ _ _ 0xF00F#16 0x6000#16 (by revert n m; decide)
theorem movwLoad (m : Reg) (n : Reg) : Statement (.movwLoad m n) := mask4444 _ _ _ _ 0xF00F#16 0x6001#16 (by revert n m; decide)
theorem movlLoad (m : Reg) (n : Reg) : Statement (.movlLoad m n) := mask4444 _ _ _ _ 0xF00F#16 0x6002#16 (by revert n m; decide)
theorem mov (m : Reg) (n : Reg) : Statement (.mov m n) := mask4444 _ _ _ _ 0xF00F#16 0x6003#16 (by revert n m; decide)
theorem movbLoadInc (m : Reg) (n : Reg) : Statement (.movbLoadInc m n) := mask4444 _ _ _ _ 0xF00F#16 0x6004#16 (by revert n m; decide)
theorem movwLoadInc (m : Reg) (n : Reg) : Statement (.movwLoadInc m n) := mask4444 _ _ _ _ 0xF00F#16 0x6005#16 (by revert n m; decide)
theorem movlLoadInc (m : Reg) (n : Reg) : Statement (.movlLoadInc m n) := mask4444 _ _ _ _ 0xF00F#16 0x6006#16 (by revert n m; decide)
theorem movbStoreDisp (n : Reg) (d : BitVec 4) : Statement (.movbStoreDisp n d) := mask4444 _ _ _ _ 0xFF00#16 0x8000#16 (by revert n d; decide)
theorem movwStoreDisp (n : Reg) (d : BitVec 4) : Statement (.movwStoreDisp n d) := mask4444 _ _ _ _ 0xFF00#16 0x8100#16 (by revert n d; decide)
theorem movbLoadDisp (m : Reg) (d : BitVec 4) : Statement (.movbLoadDisp m d) := mask4444 _ _ _ _ 0xFF00#16 0x8400#16 (by revert m d; decide)
theorem movwLoadDisp (m : Reg) (d : BitVec 4) : Statement (.movwLoadDisp m d) := mask4444 _ _ _ _ 0xFF00#16 0x8500#16 (by revert m d; decide)
theorem movwLoadPcDisp (d : BitVec 8) (n : Reg) : Statement (.movwLoadPcDisp d n) := mask448 _ _ _ 0xF000#16 0x9000#16 (by revert n; decide)
theorem movbStoreGbr (d : BitVec 8) : Statement (.movbStoreGbr d) := mask448 _ _ _ 0xFF00#16 0xC000#16 (by decide)
theorem movwStoreGbr (d : BitVec 8) : Statement (.movwStoreGbr d) := mask448 _ _ _ 0xFF00#16 0xC100#16 (by decide)
theorem movlStoreGbr (d : BitVec 8) : Statement (.movlStoreGbr d) := mask448 _ _ _ 0xFF00#16 0xC200#16 (by decide)
theorem movbLoadGbr (d : BitVec 8) : Statement (.movbLoadGbr d) := mask448 _ _ _ 0xFF00#16 0xC400#16 (by decide)
theorem movwLoadGbr (d : BitVec 8) : Statement (.movwLoadGbr d) := mask448 _ _ _ 0xFF00#16 0xC500#16 (by decide)
theorem movlLoadGbr (d : BitVec 8) : Statement (.movlLoadGbr d) := mask448 _ _ _ 0xFF00#16 0xC600#16 (by decide)
theorem mova (d : BitVec 8) : Statement (.mova d) := mask448 _ _ _ 0xFF00#16 0xC700#16 (by decide)
theorem movlLoadPcDisp (d : BitVec 8) (n : Reg) : Statement (.movlLoadPcDisp d n) := mask448 _ _ _ 0xF000#16 0xD000#16 (by revert n; decide)
theorem movImm (i : BitVec 8) (n : Reg) : Statement (.movImm i n) := mask448 _ _ _ 0xF000#16 0xE000#16 (by revert n; decide)
theorem mull (m : Reg) (n : Reg) : Statement (.mull m n) := mask4444 _ _ _ _ 0xF00F#16 0x0007#16 (by revert n m; decide)
theorem muluw (m : Reg) (n : Reg) : Statement (.muluw m n) := mask4444 _ _ _ _ 0xF00F#16 0x200E#16 (by revert n m; decide)
theorem mulsw (m : Reg) (n : Reg) : Statement (.mulsw m n) := mask4444 _ _ _ _ 0xF00F#16 0x200F#16 (by revert n m; decide)
theorem dmulul (m : Reg) (n : Reg) : Statement (.dmulul m n) := mask4444 _ _ _ _ 0xF00F#16 0x3005#16 (by revert n m; decide)
theorem dmulsl (m : Reg) (n : Reg) : Statement (.dmulsl m n) := mask4444 _ _ _ _ 0xF00F#16 0x300D#16 (by revert n m; decide)
theorem div0u : Statement (.div0u) := mask4444 _ _ _ _ 0xFFFF#16 0x0019#16 (by decide)
theorem div0s (m : Reg) (n : Reg) : Statement (.div0s m n) := mask4444 _ _ _ _ 0xF00F#16 0x2007#16 (by revert n m; decide)
theorem div1 (m : Reg) (n : Reg) : Statement (.div1 m n) := mask4444 _ _ _ _ 0xF00F#16 0x3004#16 (by revert n m; decide)
theorem tst (m : Reg) (n : Reg) : Statement (.tst m n) := mask4444 _ _ _ _ 0xF00F#16 0x2008#16 (by revert n m; decide)
theorem and (m : Reg) (n : Reg) : Statement (.and m n) := mask4444 _ _ _ _ 0xF00F#16 0x2009#16 (by revert n m; decide)
theorem xor (m : Reg) (n : Reg) : Statement (.xor m n) := mask4444 _ _ _ _ 0xF00F#16 0x200A#16 (by revert n m; decide)
theorem or (m : Reg) (n : Reg) : Statement (.or m n) := mask4444 _ _ _ _ 0xF00F#16 0x200B#16 (by revert n m; decide)
theorem not (m : Reg) (n : Reg) : Statement (.not m n) := mask4444 _ _ _ _ 0xF00F#16 0x6007#16 (by revert n m; decide)
theorem tstImm (j : BitVec 8) : Statement (.tstImm j) := mask448 _ _ _ 0xFF00#16 0xC800#16 (by decide)
theorem andImm (j : BitVec 8) : Statement (.andImm j) := mask448 _ _ _ 0xFF00#16 0xC900#16 (by decide)
theorem xorImm (j : BitVec 8) : Statement (.xorImm j) := mask448 _ _ _ 0xFF00#16 0xCA00#16 (by decide)
theorem orImm (j : BitVec 8) : Statement (.orImm j) := mask448 _ _ _ 0xFF00#16 0xCB00#16 (by decide)
theorem cmpstr (m : Reg) (n : Reg) : Statement (.cmpstr m n) := mask4444 _ _ _ _ 0xF00F#16 0x200C#16 (by revert n m; decide)
theorem cmpeq (m : Reg) (n : Reg) : Statement (.cmpeq m n) := mask4444 _ _ _ _ 0xF00F#16 0x3000#16 (by revert n m; decide)
theorem cmphs (m : Reg) (n : Reg) : Statement (.cmphs m n) := mask4444 _ _ _ _ 0xF00F#16 0x3002#16 (by revert n m; decide)
theorem cmpge (m : Reg) (n : Reg) : Statement (.cmpge m n) := mask4444 _ _ _ _ 0xF00F#16 0x3003#16 (by revert n m; decide)
theorem cmphi (m : Reg) (n : Reg) : Statement (.cmphi m n) := mask4444 _ _ _ _ 0xF00F#16 0x3006#16 (by revert n m; decide)
theorem cmpgt (m : Reg) (n : Reg) : Statement (.cmpgt m n) := mask4444 _ _ _ _ 0xF00F#16 0x3007#16 (by revert n m; decide)
theorem cmppz (n : Reg) : Statement (.cmppz n) := mask4444 _ _ _ _ 0xF0FF#16 0x4011#16 (by revert n; decide)
theorem cmppl (n : Reg) : Statement (.cmppl n) := mask4444 _ _ _ _ 0xF0FF#16 0x4015#16 (by revert n; decide)
theorem cmpeqImm (i : BitVec 8) : Statement (.cmpeqImm i) := mask448 _ _ _ 0xFF00#16 0x8800#16 (by decide)
theorem sub (m : Reg) (n : Reg) : Statement (.sub m n) := mask4444 _ _ _ _ 0xF00F#16 0x3008#16 (by revert n m; decide)
theorem subc (m : Reg) (n : Reg) : Statement (.subc m n) := mask4444 _ _ _ _ 0xF00F#16 0x300A#16 (by revert n m; decide)
theorem subv (m : Reg) (n : Reg) : Statement (.subv m n) := mask4444 _ _ _ _ 0xF00F#16 0x300B#16 (by revert n m; decide)
theorem add (m : Reg) (n : Reg) : Statement (.add m n) := mask4444 _ _ _ _ 0xF00F#16 0x300C#16 (by revert n m; decide)
theorem addc (m : Reg) (n : Reg) : Statement (.addc m n) := mask4444 _ _ _ _ 0xF00F#16 0x300E#16 (by revert n m; decide)
theorem addv (m : Reg) (n : Reg) : Statement (.addv m n) := mask4444 _ _ _ _ 0xF00F#16 0x300F#16 (by revert n m; decide)
theorem addImm (i : BitVec 8) (n : Reg) : Statement (.addImm i n) := mask448 _ _ _ 0xF000#16 0x7000#16 (by revert n; decide)
theorem neg (m : Reg) (n : Reg) : Statement (.neg m n) := mask4444 _ _ _ _ 0xF00F#16 0x600B#16 (by revert n m; decide)
theorem negc (m : Reg) (n : Reg) : Statement (.negc m n) := mask4444 _ _ _ _ 0xF00F#16 0x600A#16 (by revert n m; decide)
theorem dt (n : Reg) : Statement (.dt n) := mask4444 _ _ _ _ 0xF0FF#16 0x4010#16 (by revert n; decide)
theorem extub (m : Reg) (n : Reg) : Statement (.extub m n) := mask4444 _ _ _ _ 0xF00F#16 0x600C#16 (by revert n m; decide)
theorem extuw (m : Reg) (n : Reg) : Statement (.extuw m n) := mask4444 _ _ _ _ 0xF00F#16 0x600D#16 (by revert n m; decide)
theorem extsb (m : Reg) (n : Reg) : Statement (.extsb m n) := mask4444 _ _ _ _ 0xF00F#16 0x600E#16 (by revert n m; decide)
theorem extsw (m : Reg) (n : Reg) : Statement (.extsw m n) := mask4444 _ _ _ _ 0xF00F#16 0x600F#16 (by revert n m; decide)
theorem swapb (m : Reg) (n : Reg) : Statement (.swapb m n) := mask4444 _ _ _ _ 0xF00F#16 0x6008#16 (by revert n m; decide)
theorem swapw (m : Reg) (n : Reg) : Statement (.swapw m n) := mask4444 _ _ _ _ 0xF00F#16 0x6009#16 (by revert n m; decide)
theorem xtrct (m : Reg) (n : Reg) : Statement (.xtrct m n) := mask4444 _ _ _ _ 0xF00F#16 0x200D#16 (by revert n m; decide)
theorem shll (n : Reg) : Statement (.shll n) := mask4444 _ _ _ _ 0xF0FF#16 0x4000#16 (by revert n; decide)
theorem shal (n : Reg) : Statement (.shal n) := mask4444 _ _ _ _ 0xF0FF#16 0x4020#16 (by revert n; decide)
theorem shlr (n : Reg) : Statement (.shlr n) := mask4444 _ _ _ _ 0xF0FF#16 0x4001#16 (by revert n; decide)
theorem shar (n : Reg) : Statement (.shar n) := mask4444 _ _ _ _ 0xF0FF#16 0x4021#16 (by revert n; decide)
theorem rotl (n : Reg) : Statement (.rotl n) := mask4444 _ _ _ _ 0xF0FF#16 0x4004#16 (by revert n; decide)
theorem rotr (n : Reg) : Statement (.rotr n) := mask4444 _ _ _ _ 0xF0FF#16 0x4005#16 (by revert n; decide)
theorem rotcl (n : Reg) : Statement (.rotcl n) := mask4444 _ _ _ _ 0xF0FF#16 0x4024#16 (by revert n; decide)
theorem rotcr (n : Reg) : Statement (.rotcr n) := mask4444 _ _ _ _ 0xF0FF#16 0x4025#16 (by revert n; decide)
theorem shll2 (n : Reg) : Statement (.shll2 n) := mask4444 _ _ _ _ 0xF0FF#16 0x4008#16 (by revert n; decide)
theorem shll8 (n : Reg) : Statement (.shll8 n) := mask4444 _ _ _ _ 0xF0FF#16 0x4018#16 (by revert n; decide)
theorem shll16 (n : Reg) : Statement (.shll16 n) := mask4444 _ _ _ _ 0xF0FF#16 0x4028#16 (by revert n; decide)
theorem shlr2 (n : Reg) : Statement (.shlr2 n) := mask4444 _ _ _ _ 0xF0FF#16 0x4009#16 (by revert n; decide)
theorem shlr8 (n : Reg) : Statement (.shlr8 n) := mask4444 _ _ _ _ 0xF0FF#16 0x4019#16 (by revert n; decide)
theorem shlr16 (n : Reg) : Statement (.shlr16 n) := mask4444 _ _ _ _ 0xF0FF#16 0x4029#16 (by revert n; decide)
theorem shll4 (n : Reg) : Statement (.shll4 n) := mask4444 _ _ _ _ 0xF0FF#16 0x4034#16 (by revert n; decide)
theorem shlr4 (n : Reg) : Statement (.shlr4 n) := mask4444 _ _ _ _ 0xF0FF#16 0x4035#16 (by revert n; decide)
theorem shad (m : Reg) (n : Reg) : Statement (.shad m n) := mask4444 _ _ _ _ 0xF00F#16 0x400C#16 (by revert n m; decide)
theorem shld (m : Reg) (n : Reg) : Statement (.shld m n) := mask4444 _ _ _ _ 0xF00F#16 0x400D#16 (by revert n m; decide)
theorem trapa (j : BitVec 8) : Statement (.trapa j) := mask448 _ _ _ 0xFF00#16 0xC300#16 (by decide)
theorem rte : Statement (.rte) := mask4444 _ _ _ _ 0xFFFF#16 0x002B#16 (by decide)
theorem sleep : Statement (.sleep) := mask4444 _ _ _ _ 0xFFFF#16 0x001B#16 (by decide)
theorem brk : Statement (.brk) := mask4444 _ _ _ _ 0xFFFF#16 0x003B#16 (by decide)
theorem ldtlb : Statement (.ldtlb) := mask4444 _ _ _ _ 0xFFFF#16 0x0038#16 (by decide)
theorem movual (m : Reg) : Statement (.movual m) := mask4444 _ _ _ _ 0xF0FF#16 0x00A9#16 (by revert m; decide)
theorem movualDec (m : Reg) : Statement (.movualDec m) := mask4444 _ _ _ _ 0xF0FF#16 0x00E9#16 (by revert m; decide)
theorem jsrN (m : Reg) : Statement (.jsrN m) := mask4444 _ _ _ _ 0xF0FF#16 0x404B#16 (by revert m; decide)
theorem rtvN (m : Reg) : Statement (.rtvN m) := mask4444 _ _ _ _ 0xF0FF#16 0x007B#16 (by revert m; decide)

end Sys2Proof.Laws.TableRow
end

