-- ==== Sys2Proof/Laws/Run.lean ====
section
/-! SUPPORT. Runs (R15): the endless sleep is where `step` has no next state, and what a run answers. -/

namespace Sys2Proof.Machine

variable {s t : State} {stop : DWord} {n : Nat}

/-- The request of this boundary or a later one is accepted, if one of the list is. -/
theorem canWake_eq (s : State) :
    s.canWake = (s.irqNow.any s.consumeIrq.accepts || s.consumeIrq.canWake) := by
  have ha : s.consumeIrq.accepts = s.accepts := rfl
  unfold State.canWake State.irqNow
  rw [ha, consumeIrq_irqs]
  cases s.irqs with
  | nil => rfl
  | cons r rest => cases r <;> rfl

/-- What a core does at its boundary once nothing is accepted there (R412, R441). -/
theorem unaccepting_eq_stuck (s : State) : s.unaccepting = .stuck ↔ s.sleeping = true ∧ s.canWake = false := by
  unfold State.unaccepting
  by_cases hs : s.sleeping = true <;> by_cases hw : s.canWake = true <;> simp [hs, hw]

/-- The boundary is stuck exactly in a sleep that cannot end (R412). -/
theorem boundary_eq_stuck (s : State) :
    boundary s.irqNow s.consumeIrq = .stuck ↔ s.asleepForGood = true := by
  rw [State.asleepForGood, canWake_eq]
  unfold boundary
  cases hi : s.irqNow with
  | none => simp [unaccepting_eq_stuck]
  | some l =>
    by_cases hl : s.consumeIrq.accepts l = true <;> simp [hl, unaccepting_eq_stuck]

/-- A core asleep for good has no next state (R412). -/
theorem step_asleepForGood (h : s.asleepForGood = true) : step s = .fault .endlessSleep := by
  simp only [step, (boundary_eq_stuck s).mpr h]

/-- The state a run ends in is an end. -/
theorem runTo_ended (h : runTo stop n s = .ended t) : t.ended stop = true := by
  induction n generalizing s with
  | zero =>
    unfold runTo at h
    split at h
    · cases h; assumption
    · cases h
  | succ n ih =>
    unfold runTo at h
    split at h
    · cases h; assumption
    · split at h
      · exact ih h
      · cases h
      · cases h

/-- A run that is at its end stays there, however many steps it may take. -/
theorem runTo_of_ended (h : s.ended stop = true) : runTo stop n s = .ended s := by
  cases n <;> simp [runTo, h]

/-- A run that has ended within some steps has ended within more. -/
theorem runTo_mono {m : Nat} (h : runTo stop n s = .ended t) (hm : n ≤ m) : runTo stop m s = .ended t := by
  induction n generalizing s m with
  | zero =>
    unfold runTo at h
    split at h
    · cases h; exact runTo_of_ended (by assumption)
    · cases h
  | succ n ih =>
    obtain ⟨m, rfl⟩ : ∃ k, m = k + 1 := ⟨m - 1, by omega⟩
    unfold runTo at h ⊢
    split at h
    · rename_i he; rw [if_pos he]; exact h
    · rename_i he
      rw [if_neg he]
      cases hs : step s with
      | next u => rw [hs] at h; exact ih h (by omega)
      | fault r => rw [hs] at h; cases h
      | refused r => rw [hs] at h; cases h

/-- A run that is not at its end after `n` steps has made them all. -/
theorem runTo_unfinished_safeRun (h : runTo stop n s = .unfinished t) : safeRun n s := by
  induction n generalizing s with
  | zero => trivial
  | succ n ih =>
    unfold runTo at h
    split at h
    · cases h
    · split at h
      · rename_i u hs; exact ⟨u, hs, ih h⟩
      · cases h
      · cases h

end Sys2Proof.Machine
end

