-- ==== Sys2Proof/Laws/Step.lean ====
section
/-! SUPPORT. Once for all instructions, everything an instruction can do when `exec` answers a next state: it took an
exception, or it ended in a way that keeps what `Ordinary` lists. -/

namespace Sys2Proof.Machine

/-- What no instruction does from `s` to `u` before it ends: the parameters, the input, the ghost cause, pc, the pending
branch and the sleep bit stay; accesses that reached devices are only added to; the canonical forms stay; SR changes only
in T, S, Q, M; without privilege the privileged registers and a bank that is not mapped stay. -/
structure Mild (s u : State) : Prop where
  cfg : u.cfg = s.cfg
  irqs : u.irqs = s.irqs
  devices : s.devicesFollow u
  lastCause : u.lastCause = s.lastCause
  pc : u.pc = s.pc
  delayTarget : u.delayTarget = s.delayTarget
  sleeping : u.sleeping = s.sleeping
  mem : Memory.wf s.mem = true → Memory.wf u.mem = true
  stale : staleWf s.icacheStale = true → staleWf u.icacheStale = true
  sr : ∀ i, i ≠ 0 → i ≠ 1 → i ≠ 8 → i ≠ 9 → u.sr.getLsbD i = s.sr.getLsbD i
  kept : s.privOk = false → u.vbr = s.vbr ∧ u.ssr = s.ssr ∧ u.spc = s.spc ∧ u.sgr = s.sgr ∧ u.dbr = s.dbr
  bankB : s.privOk = false → s.bankBMapped = false → ∀ k, u.readPhys (.bankB k) = s.readPhys (.bankB k)

/-- What an instruction that took no exception keeps, with where it goes: in a delay slot to the target of the branch,
and a new delayed branch is followed by the next instruction. -/
structure Ordinary (s t : State) : Prop where
  cfg : t.cfg = s.cfg
  irqs : t.irqs = s.irqs
  devices : s.devicesFollow t
  lastCause : t.lastCause = s.lastCause
  mem : Memory.wf s.mem = true → Memory.wf t.mem = true
  stale : staleWf s.icacheStale = true → staleWf t.icacheStale = true
  sr : (∀ i, i ≠ 0 → i ≠ 1 → i ≠ 8 → i ≠ 9 → t.sr.getLsbD i = s.sr.getLsbD i) ∨
    (s.privOk = true ∧ ∃ v, t.sr = v &&& s.cfg.srWriteMask)
  kept : s.privOk = false →
    t.vbr = s.vbr ∧ t.ssr = s.ssr ∧ t.spc = s.spc ∧ t.sgr = s.sgr ∧ t.dbr = s.dbr ∧ t.sleeping = s.sleeping
  bankB : s.privOk = false → s.bankBMapped = false → ∀ k, t.readPhys (.bankB k) = s.readPhys (.bankB k)
  slot : ∀ x, s.delayTarget = some x → t.pc = x ∧ t.delayTarget = none
  branch : t.delayTarget ≠ none → t.pc = s.pc + 2
  asleep : t.sleeping = s.sleeping ∨ t.delayTarget = none

variable {s u : State}

/-- No access. -/
theorem devicesFollow_refl (s : State) : s.devicesFollow s := ⟨[], rfl, rfl, by simp⟩

/-- Only the log and the input of the later state matter. -/
theorem State.devicesFollow.congr {s u v : State} (h : s.devicesFollow u) (hl : v.deviceLog = u.deviceLog)
    (hi : v.deviceInput = u.deviceInput) : s.devicesFollow v := by
  obtain ⟨new, h1, h2, h3⟩ := h
  exact ⟨new, hl.trans h1, hi.trans h2, h3⟩

/-- Accesses after accesses. -/
theorem State.devicesFollow.trans {s u v : State} (h : s.devicesFollow u) (h' : u.devicesFollow v)
    (hc : u.cfg = s.cfg) : s.devicesFollow v := by
  obtain ⟨x, h1, h2, h3⟩ := h
  obtain ⟨y, k1, k2, k3⟩ := h'
  refine ⟨y ++ x, by rw [k1, h1, List.append_assoc], by rw [k2, h2, List.drop_drop, List.countP_append, Nat.add_comm],
    fun z hz => ?_⟩
  rcases List.mem_append.mp hz with hz | hz
  · rw [← hc]; exact k3 z hz
  · exact h3 z hz

/-- A read that a device may have answered. -/
theorem devicesFollow_afterLoad (s : State) (n : Width) (a : DWord) : s.devicesFollow (s.afterLoad n a) := by
  unfold State.afterLoad
  split
  · rename_i h
    exact ⟨[.read n.bytes a (s.deviceValue n)], rfl, by simp [DeviceAccess.isRead],
      by simpa [DeviceAccess.address, State.atDevice] using h⟩
  · exact devicesFollow_refl s

/-- A write that a device may have been given. -/
theorem devicesFollow_writeMem (s : State) (n : Width) (a v : DWord) : s.devicesFollow (s.writeMem n a v) := by
  unfold State.writeMem
  split
  · rename_i h
    exact ⟨[.write n.bytes a (v &&& n.valueMask)], rfl, by simp [DeviceAccess.isRead],
      by simpa [DeviceAccess.address, State.atDevice] using h⟩
  · exact ⟨[], by simp, by simp, by simp⟩

theorem Mild.refl (s : State) : Mild s s :=
  ⟨rfl, rfl, devicesFollow_refl s, rfl, rfl, rfl, rfl, id, id, fun _ _ _ _ _ => rfl, fun _ => ⟨rfl, rfl, rfl, rfl, rfl⟩,
    fun _ _ _ => rfl⟩

/-- The bank mapping is the same before the instruction ends. -/
theorem Mild.bankBMapped (h : Mild s u) : u.bankBMapped = s.bankBMapped := by
  unfold State.bankBMapped State.md State.rb
  rw [h.cfg, h.sr 30 (by decide) (by decide) (by decide) (by decide),
    h.sr 29 (by decide) (by decide) (by decide) (by decide)]

/-- Writing a general register. -/
theorem Mild.setReg (h : Mild s u) (r : Reg) (v : DWord) : Mild s (u.setReg r v) := by
  refine ⟨by simpa using h.cfg, by simpa using h.irqs, h.devices.congr (by simp) (by simp), by simpa using h.lastCause, by simpa using h.pc,
    by simpa using h.delayTarget, by simpa using h.sleeping, by simpa using h.mem, by simpa using h.stale,
    by simpa using h.sr, by simpa using h.kept, fun hp hb k => ?_⟩
  rw [readPhys_setReg, ← h.bankB hp hb k, if_neg]
  rw [← h.bankBMapped] at hb
  unfold State.physOf
  rw [hb]
  split <;> simp

/-- Writing a bit of SR that every instruction may write. -/
theorem Mild.srBit (h : Mild s u) (j : Nat) (b : Bool) (hj : j = 0 ∨ j = 1 ∨ j = 8 ∨ j = 9) :
    Mild s { u with sr := setBit u.sr j b } := by
  refine ⟨h.cfg, h.irqs, h.devices, h.lastCause, h.pc, h.delayTarget, h.sleeping, h.mem, h.stale, fun i h0 h1 h8 h9 => ?_, h.kept,
    fun hp hb k => by rw [← h.bankB hp hb k]; rfl⟩
  rw [← h.sr i h0 h1 h8 h9]
  show (setBit u.sr j b).getLsbD i = _
  rw [getLsbD_setBit _ _ _ _ (by omega), if_neg (by omega)]

theorem Mild.withT (h : Mild s u) (b : Bool) : Mild s (u.withT b) := h.srBit 0 b (by decide)
theorem Mild.withS (h : Mild s u) (b : Bool) : Mild s (u.withS b) := h.srBit 1 b (by decide)
theorem Mild.withQ (h : Mild s u) (b : Bool) : Mild s (u.withQ b) := h.srBit 8 b (by decide)
theorem Mild.withM (h : Mild s u) (b : Bool) : Mild s (u.withM b) := h.srBit 9 b (by decide)

/-- Writing the multiply registers. -/
theorem Mild.mac (h : Mild s u) (x y : DWord) : Mild s { u with mach := x, macl := y } :=
  ⟨h.cfg, h.irqs, h.devices, h.lastCause, h.pc, h.delayTarget, h.sleeping, h.mem, h.stale, h.sr, h.kept,
    fun hp hb k => by rw [← h.bankB hp hb k]; rfl⟩

/-- A store. -/
theorem Mild.writeMem (h : Mild s u) (n : Width) (a v : DWord) : Mild s (u.writeMem n a v) := by
  refine ⟨by simpa using h.cfg, by simpa using h.irqs, h.devices.trans (devicesFollow_writeMem u n a v) h.cfg,
    by simpa using h.lastCause, by simpa using h.pc,
    by simpa using h.delayTarget, by simpa using h.sleeping, fun hm => writeMem_wf _ _ _ _ (h.mem hm),
    fun hs => writeMem_staleWf _ _ _ _ (h.stale hs), by simpa using h.sr, by simpa using h.kept,
    fun hp hb k => by rw [← h.bankB hp hb k]; simp⟩

/-- A load, whoever answers. -/
theorem Mild.afterLoad (h : Mild s u) (n : Width) (a : DWord) : Mild s (u.afterLoad n a) := by
  refine ⟨by simpa using h.cfg, by simpa using h.irqs, h.devices.trans (devicesFollow_afterLoad u n a) h.cfg,
    by simpa using h.lastCause, by simpa using h.pc, by simpa using h.delayTarget, by simpa using h.sleeping,
    by simpa using h.mem, by simpa using h.stale, by simpa using h.sr, by simpa using h.kept,
    fun hp hb k => by rw [← h.bankB hp hb k]; simp⟩

/-- `ICBI`. -/
theorem Mild.invalidateLine (h : Mild s u) (a : DWord) : Mild s (u.invalidateLine a) := by
  refine ⟨by simpa using h.cfg, by simpa using h.irqs, h.devices.congr (by simp) (by simp), by simpa using h.lastCause, by simpa using h.pc,
    by simpa using h.delayTarget, by simpa using h.sleeping, by simpa using h.mem,
    fun hs => invalidateLine_staleWf _ _ (h.stale hs), by simpa using h.sr, by simpa using h.kept,
    fun hp hb k => by rw [← h.bankB hp hb k]; simp⟩

/-- Writing a system register that may be written. -/
theorem Mild.writeSys (h : Mild s u) (o : SysIdx) (v : DWord) (ho : s.sysOk o = true) : Mild s (u.writeSys o v) := by
  refine ⟨by simpa using h.cfg, by simpa using h.irqs, h.devices.congr (by simp) (by simp), by simpa using h.lastCause, by simpa using h.pc,
    by simpa using h.delayTarget, by simpa using h.sleeping, by simpa using h.mem, by simpa using h.stale,
    by simpa using h.sr, fun hp => ?_, fun hp hb k => by rw [← h.bankB hp hb k]; simp⟩
  obtain ⟨h1, h2, h3, h4, h5⟩ := h.kept hp
  unfold State.sysOk at ho
  unfold State.writeSys
  split <;> simp_all

/-- The end of an instruction that requested no new pc. -/
theorem Mild.advance (h : Mild s u) : Ordinary s u.advance := by
  refine ⟨by simpa using h.cfg, by simpa using h.irqs, h.devices.congr (by simp) (by simp), by simpa using h.lastCause, by simpa using h.mem,
    by simpa using h.stale, .inl (by simpa using h.sr), fun hp => ?_,
    fun hp hb k => by rw [← h.bankB hp hb k]; simp, fun x hx => ?_, by simp, .inr (by simp)⟩
  · obtain ⟨h1, h2, h3, h4, h5⟩ := h.kept hp
    simp [h1, h2, h3, h4, h5, h.sleeping]
  · simp [h.pc, h.delayTarget, hx]

/-- The end of an instruction that wrote a control register it may write. -/
theorem Mild.writeCtrl_advance (h : Mild s u) (o : CtrlIdx) (v : DWord) (ho : s.ctrlWriteOk o = true) :
    Ordinary s (u.writeCtrl o v).advance := by
  have hk : s.privOk = false → (u.writeCtrl o v).vbr = u.vbr ∧ (u.writeCtrl o v).ssr = u.ssr ∧
      (u.writeCtrl o v).spc = u.spc ∧ (u.writeCtrl o v).sr = u.sr ∧
      ∀ k, (u.writeCtrl o v).readPhys (.bankB k) = u.readPhys (.bankB k) := by
    intro hp
    unfold State.ctrlWriteOk at ho
    unfold State.writeCtrl
    split <;> simp_all
    all_goals (intro k; rfl)
  refine ⟨by simpa using h.cfg, by simpa using h.irqs, h.devices.congr (by simp) (by simp), by simpa using h.lastCause, by simpa using h.mem,
    by simpa using h.stale, ?_, fun hp => ?_, fun hp hb k => ?_, fun x hx => ?_, by simp, .inr (by simp)⟩
  · cases hp : s.privOk
    · obtain ⟨_, _, _, h4, _⟩ := hk hp
      exact .inl fun i h0 h1 h8 h9 => by rw [advance_sr, h4, h.sr i h0 h1 h8 h9]
    · by_cases hs : ctrlReg o = .sr
      · exact .inr ⟨rfl, v, by simp [State.writeCtrl, hs, h.cfg]⟩
      · have : (u.writeCtrl o v).sr = u.sr := by
          unfold State.writeCtrl; split <;> simp_all
        exact .inl fun i h0 h1 h8 h9 => by rw [advance_sr, this, h.sr i h0 h1 h8 h9]
  · obtain ⟨h1, h2, h3, _, _⟩ := hk hp
    obtain ⟨k1, k2, k3, k4, k5⟩ := h.kept hp
    simp [h1, h2, h3, k1, k2, k3, k4, k5, h.sleeping]
  · obtain ⟨_, _, _, _, h5⟩ := hk hp
    rw [advance_readPhys, h5, h.bankB hp hb k]
  · simp [h.pc, h.delayTarget, hx]

/-- A branch out of no delay slot, with or without a link, and with or without a slot of its own. -/
theorem ordinary_branch (t : State) (h : s.inSlot = false) (hm : Mild s { t with pc := s.pc, delayTarget := none })
    (hb : t.delayTarget ≠ none → t.pc = s.pc + 2) : Ordinary s t := by
  have hn : s.delayTarget = none := by simpa [State.inSlot] using h
  refine ⟨hm.cfg, hm.irqs, hm.devices, hm.lastCause, hm.mem, hm.stale, .inl hm.sr, fun hp => ?_, fun hp hb' k => ?_, fun x hx => ?_,
    hb, .inl hm.sleeping⟩
  · obtain ⟨h1, h2, h3, h4, h5⟩ := hm.kept hp
    exact ⟨h1, h2, h3, h4, h5, hm.sleeping⟩
  · rw [← hm.bankB hp hb' k]; rfl
  · rw [hn] at hx; exact absurd hx (by simp)

theorem ordinary_jump (x : DWord) (h : s.inSlot = false) : Ordinary s (s.jump x) := by
  have hn : s.delayTarget = none := by simpa [State.inSlot] using h
  refine ordinary_branch _ h ?_ (fun hc => absurd hn hc)
  have : ({ s.jump x with pc := s.pc, delayTarget := none } : State) = s := by cases s; cases hn; rfl
  rw [this]; exact Mild.refl s

theorem ordinary_delayedBranch (x : DWord) (h : s.inSlot = false) : Ordinary s (s.delayedBranch x) := by
  have hn : s.delayTarget = none := by simpa [State.inSlot] using h
  refine ordinary_branch _ h ?_ (fun _ => rfl)
  have : ({ s.delayedBranch x with pc := s.pc, delayTarget := none } : State) = s := by cases s; cases hn; rfl
  rw [this]; exact Mild.refl s

theorem ordinary_call (x l : DWord) (h : s.inSlot = false) :
    Ordinary s ({ s with pr := l }.delayedBranch x) := by
  have hn : s.delayTarget = none := by simpa [State.inSlot] using h
  refine ordinary_branch _ h ?_ (fun _ => rfl)
  have : ({ { s with pr := l }.delayedBranch x with pc := s.pc, delayTarget := none } : State) = { s with pr := l } := by
    cases s; cases hn; rfl
  rw [this]
  exact ⟨rfl, rfl, devicesFollow_refl _, rfl, rfl, rfl, rfl, id, id, fun _ _ _ _ _ => rfl,
    fun _ => ⟨rfl, rfl, rfl, rfl, rfl⟩, fun _ _ _ => rfl⟩

/-- `RTE` where it may run. -/
theorem ordinary_return (h : s.inSlot = false) (hp : s.privOk = true) : Ordinary s s.returnFromException := by
  have hn : s.delayTarget = none := by simpa [State.inSlot] using h
  refine ⟨rfl, rfl, devicesFollow_refl _, rfl, id, id, .inr ⟨hp, s.ssr, rfl⟩, fun h' => ?_, fun h' => ?_, fun x hx => ?_, fun _ => rfl, .inl rfl⟩
  · rw [hp] at h'; exact absurd h' (by decide)
  · rw [hp] at h'; exact absurd h' (by decide)
  · rw [hn] at hx; exact absurd hx (by simp)

/-- `SLEEP` where it may run. -/
theorem ordinary_sleep (h : s.inSlot = false) (hp : s.privOk = true) :
    Ordinary s { s with sleeping := true, pc := s.pc + 2 } := by
  have hn : s.delayTarget = none := by simpa [State.inSlot] using h
  refine ⟨rfl, rfl, devicesFollow_refl _, rfl, id, id, .inl fun _ _ _ _ _ => rfl, fun h' => ?_, fun h' => ?_, fun x hx => ?_,
    fun hc => absurd hn hc, .inr hn⟩
  · rw [hp] at h'; exact absurd h' (by decide)
  · rw [hp] at h'; exact absurd h' (by decide)
  · rw [hn] at hx; exact absurd hx (by simp)

/-- The exceptions an instruction raises, each with the address it saves (R433): the trap instructions outside a delay
slot, the address after them; a fault its own address, or from a delay slot the branch's. -/
def Raised (s : State) : Cause → DWord → Prop
  | .interrupt _, _ => False
  | .trapa _, x => s.inSlot = false ∧ x = s.pc + 2
  | .breakpoint, x => s.inSlot = false ∧ x = s.pc + 2
  | .illegalInstruction _, x => s.inSlot = false ∧ x = s.pc
  | .slotIllegalInstruction _, x => s.inSlot = true ∧ x = s.pc - 2
  | .addressErrorRead _, x => x = s.faultPc
  | .addressErrorWrite _, x => x = s.faultPc

/-- What an instruction does when it has a next state: it takes an exception it may raise, or it ends as `Ordinary`
says. -/
def Ends (s t : State) : Prop :=
  (∃ c saved, s.bl = false ∧ t = s.enterTrap c saved s.cfg.vecGeneral ∧ Raised s c saved) ∨ Ordinary s t

variable {t : State}

theorem ends_illegal {w : Word} (h : raiseIllegal w s = .next t) : Ends s t := by
  obtain ⟨hb, rfl⟩ := raiseIllegal_next.mp h
  refine .inl ⟨_, _, hb, rfl, ?_⟩
  cases hs : s.inSlot <;> simp [Raised, State.faultPc, hs]

theorem ends_raise {c : Cause} (h : raise c s.faultPc s = .next t) (hc : Raised s c s.faultPc) : Ends s t := by
  obtain ⟨hb, rfl⟩ := raise_next.mp h
  exact .inl ⟨_, _, hb, rfl, hc⟩

theorem ends_guard {ok : Bool} {i : Instr} {k : Result} (h : guardLegal ok i s k = .next t)
    (hk : ok = true → k = .next t → Ends s t) : Ends s t := by
  rcases guardLegal_next.mp h with ⟨h1, h2⟩ | ⟨_, h2⟩
  · exact hk h1 h2
  · exact ends_illegal h2

theorem ends_finish (hm : Mild s u) (h : finish u = .next t) : Ends s t := by
  rw [finish_next] at h; exact .inr (h ▸ hm.advance)

theorem ends_withLoad {n : Width} {a : DWord} {k : DWord → State → Result} (h : withLoad n a s k = .next t)
    (hk : ∀ v, k v (s.afterLoad n a) = .next t → Ends s t) : Ends s t := by
  rcases withLoad_next.mp h with ⟨_, _, h2⟩ | ⟨_, h2⟩
  · exact hk _ h2
  · exact ends_raise h2 rfl

theorem ends_storeAt {n : Width} {a v : DWord} (h : storeAt n a v s = .next t) : Ends s t := by
  rcases storeAt_next.mp h with ⟨_, _, h2⟩ | ⟨_, h2⟩
  · exact .inr (h2 ▸ ((Mild.refl s).writeMem n a v).advance)
  · exact ends_raise h2 rfl

theorem ends_storeDecAt {n : Width} {r : Reg} {v : DWord} (h : storeDecAt n r v s = .next t) : Ends s t := by
  rcases storeDecAt_next.mp h with ⟨_, _, h2⟩ | ⟨_, h2⟩
  · exact .inr (h2 ▸ (((Mild.refl s).writeMem n _ v).setReg r _).advance)
  · exact ends_raise h2 rfl

theorem ends_loadTo {n : Width} {a : DWord} {r : Reg} (h : loadTo n a r s = .next t) : Ends s t := by
  rcases loadTo_next.mp h with ⟨_, _, h2⟩ | ⟨_, h2⟩
  · exact .inr (h2 ▸ (((Mild.refl s).afterLoad n a).setReg r _).advance)
  · exact ends_raise h2 rfl

theorem ends_loadIncTo {n : Width} {m r : Reg} (h : loadIncTo n m r s = .next t) : Ends s t := by
  rcases loadIncTo_next.mp h with ⟨_, _, h2⟩ | ⟨_, h2⟩
  · exact .inr (h2 ▸ ((((Mild.refl s).afterLoad n _).setReg m _).setReg r _).advance)
  · exact ends_raise h2 rfl

theorem ends_reg {r : Reg} {v : DWord} (h : finish (s.setReg r v) = .next t) : Ends s t :=
  ends_finish ((Mild.refl s).setReg r v) h

theorem ends_t {b : Bool} (h : finish (s.withT b) = .next t) : Ends s t :=
  ends_finish ((Mild.refl s).withT b) h

theorem ends_regT {r : Reg} {v : DWord} {b : Bool} (h : finish ((s.setReg r v).withT b) = .next t) : Ends s t :=
  ends_finish (((Mild.refl s).setReg r v).withT b) h

theorem ends_mac {x y : DWord} (h : finish { s with mach := x, macl := y } = .next t) : Ends s t :=
  ends_finish ((Mild.refl s).mac x y) h

theorem inSlot_of_guard {b : Bool} (h : (!s.inSlot && b) = true) : s.inSlot = false ∧ b = true := by
  cases hs : s.inSlot <;> simp_all

theorem ends_next {k : State} (hk : Ordinary s k) (h : (.next k : Result) = .next t) : Ends s t := by
  cases h; exact .inr hk

theorem not_inSlot (h : (!s.inSlot) = true) : s.inSlot = false := by simpa using h

/-- Everything an instruction can do when it has a next state. -/
theorem exec_ends (i : Instr) (h : exec i s = .next t) : Ends s t := by
  cases i
  case stc m n => exact ends_guard h fun _ => ends_reg
  case sts m n => exact ends_guard h fun _ => ends_reg
  case stsl m n => exact ends_guard h fun _ => ends_storeDecAt
  case stcl m n => exact ends_guard h fun _ => ends_storeDecAt
  case ldsl m o =>
    exact ends_guard h fun ho hk => ends_withLoad hk fun _ =>
      ends_finish ((((Mild.refl s).afterLoad _ _).setReg m _).writeSys o _ ho)
  case ldcl m o =>
    refine ends_guard h fun ho hk => ends_withLoad hk fun _ h2 => ?_
    rw [finish_next] at h2; exact .inr (h2 ▸ (((Mild.refl s).afterLoad _ _).setReg m _).writeCtrl_advance o _ ho)
  case lds m o => exact ends_guard h fun ho => ends_finish ((Mild.refl s).writeSys o _ ho)
  case ldc m o =>
    refine ends_guard h fun ho h2 => ?_
    rw [finish_next] at h2; exact .inr (h2 ▸ (Mild.refl s).writeCtrl_advance o _ ho)
  case clrs => exact ends_finish ((Mild.refl s).withS _) h
  case sets => exact ends_finish ((Mild.refl s).withS _) h
  case nop => exact ends_finish (Mild.refl s) h
  case pref => exact ends_finish (Mild.refl s) h
  case icbi n => exact ends_finish ((Mild.refl s).invalidateLine _) h
  case bsrf m => exact ends_guard h fun ho => ends_next (ordinary_call _ _ (not_inSlot ho))
  case jsr m => exact ends_guard h fun ho => ends_next (ordinary_call _ _ (not_inSlot ho))
  case bsr m => exact ends_guard h fun ho => ends_next (ordinary_call _ _ (not_inSlot ho))
  case braf m => exact ends_guard h fun ho => ends_next (ordinary_delayedBranch _ (not_inSlot ho))
  case rts => exact ends_guard h fun ho => ends_next (ordinary_delayedBranch _ (not_inSlot ho))
  case jmp m => exact ends_guard h fun ho => ends_next (ordinary_delayedBranch _ (not_inSlot ho))
  case bra m => exact ends_guard h fun ho => ends_next (ordinary_delayedBranch _ (not_inSlot ho))
  case rtsN => exact ends_guard h fun ho => ends_next (ordinary_jump _ (not_inSlot ho))
  case braN => exact ends_guard h fun ho => ends_next (ordinary_jump _ (not_inSlot ho))
  case bt d =>
    refine ends_guard h fun ho h2 => ?_
    split at h2
    · exact ends_next (ordinary_jump _ (not_inSlot ho)) h2
    · exact ends_finish (Mild.refl s) h2
  case bf d =>
    refine ends_guard h fun ho h2 => ?_
    split at h2
    · exact ends_next (ordinary_jump _ (not_inSlot ho)) h2
    · exact ends_finish (Mild.refl s) h2
  case bts d =>
    refine ends_guard h fun ho h2 => ?_
    split at h2
    · exact ends_next (ordinary_delayedBranch _ (not_inSlot ho)) h2
    · exact ends_finish (Mild.refl s) h2
  case bfs d =>
    refine ends_guard h fun ho h2 => ?_
    split at h2
    · exact ends_next (ordinary_delayedBranch _ (not_inSlot ho)) h2
    · exact ends_finish (Mild.refl s) h2
  case casl m n =>
    refine ends_withLoad (n := .long) (a := s.reg 0)
      (k := fun old u => finish ((if old = s.reg m then (u.writeMem .long (s.reg 0) (s.reg n)).withT true
        else u.withT false).setReg n old)) h fun v h2 => ?_
    split at h2
    · exact ends_finish (((((Mild.refl s).afterLoad _ _).writeMem _ _ _).withT _).setReg _ _) h2
    · exact ends_finish ((((Mild.refl s).afterLoad _ _).withT _).setReg _ _) h2
  case div0u => exact ends_finish ((((Mild.refl s).withM _).withQ _).withT _) h
  case div0s m n => exact ends_finish ((((Mild.refl s).withQ _).withM _).withT _) h
  case div1 m n => exact ends_finish ((((Mild.refl s).setReg _ _).withQ _).withT _) h
  case rte =>
    exact ends_guard h fun ho => ends_next (ordinary_return (inSlot_of_guard ho).1 (inSlot_of_guard ho).2)
  case sleep =>
    exact ends_guard h fun ho => ends_next (ordinary_sleep (inSlot_of_guard ho).1 (inSlot_of_guard ho).2)
  case trapa j =>
    refine ends_guard h fun ho h2 => ?_
    obtain ⟨hb, rfl⟩ := raise_next.mp h2
    exact .inl ⟨_, _, hb, rfl, not_inSlot ho, rfl⟩
  case brk =>
    refine ends_guard h fun ho h2 => ?_
    obtain ⟨hb, rfl⟩ := raise_next.mp h2
    exact .inl ⟨_, _, hb, rfl, not_inSlot ho, rfl⟩
  all_goals first
    | exact ends_reg h
    | exact ends_t h
    | exact ends_regT h
    | exact ends_mac h
    | exact ends_loadTo h
    | exact ends_storeAt h
    | exact ends_loadIncTo h
    | exact ends_storeDecAt h
    | exact ends_illegal h
    | exact ends_guard h fun _ => ends_reg
    | exact ends_guard h fun _ => ends_loadTo
    | exact ends_guard h fun _ => ends_storeAt

/-- What the result of an instruction may be: a next state, with at most two more accesses made to devices (R78); or an
exception raised while SR.BL = 1 (R435); or an aligned access to a byte that no region holds or that memory and a device
share (R75, R79). -/
def StopsFor (s : State) : Result → Prop
  | .next t => t.deviceLog.length ≤ s.deviceLog.length + 2
  | .fault r => s.bl = true ∧ ∃ c, r = .exceptionWhileBlocked c
  | .refused r => ∃ n a, aligned n a = true ∧ s.accessRefusal n a = some r

/-- A read reaches at most one device. -/
theorem afterLoad_few (s : State) (n : Width) (a : DWord) :
    (s.afterLoad n a).deviceLog.length ≤ s.deviceLog.length + 1 := by
  unfold State.afterLoad; split <;> simp

/-- A write reaches at most one device. -/
theorem writeMem_few (s : State) (n : Width) (a v : DWord) :
    (s.writeMem n a v).deviceLog.length ≤ s.deviceLog.length + 1 := by
  unfold State.writeMem; split <;> simp

theorem stops_next (t : State) (h : t.deviceLog.length ≤ s.deviceLog.length + 2 := by simp) : StopsFor s (.next t) := h

theorem stops_finish (t : State) (h : t.deviceLog.length ≤ s.deviceLog.length + 2 := by simp) :
    StopsFor s (finish t) := by
  simpa [finish, StopsFor] using h

theorem stops_raise (c : Cause) (saved : DWord) : StopsFor s (raise c saved s) := by
  unfold raise
  split
  · exact ⟨by assumption, c, rfl⟩
  · exact stops_next _

theorem stops_illegal (w : Word) : StopsFor s (raiseIllegal w s) := stops_raise _ _

theorem stops_guard {ok : Bool} {i : Instr} {k : Result} (h : StopsFor s k) : StopsFor s (guardLegal ok i s k) := by
  unfold guardLegal
  split
  · exact h
  · exact stops_illegal _

theorem stops_withLoad {n : Width} {a : DWord} {k : DWord → State → Result} (h : ∀ v, StopsFor s (k v (s.afterLoad n a))) :
    StopsFor s (withLoad n a s k) := by
  unfold withLoad
  split
  · split
    · exact ⟨n, a, by assumption, by assumption⟩
    · exact h _
  · exact stops_raise _ _

theorem stops_withStore {n : Width} {a v : DWord} {k : State → Result} (h : StopsFor s (k (s.writeMem n a v))) :
    StopsFor s (withStore n a v s k) := by
  unfold withStore
  split
  · split
    · exact ⟨n, a, by assumption, by assumption⟩
    · exact h
  · exact stops_raise _ _

theorem stops_loadTo {n : Width} {a : DWord} {r : Reg} : StopsFor s (loadTo n a r s) :=
  stops_withLoad fun _ => stops_finish _ (by have := afterLoad_few s n a; simp; omega)

theorem stops_storeAt {n : Width} {a v : DWord} : StopsFor s (storeAt n a v s) :=
  stops_withStore (stops_finish _ (by have := writeMem_few s n a v; omega))

theorem stops_loadIncTo {n : Width} {m r : Reg} : StopsFor s (loadIncTo n m r s) :=
  stops_withLoad (n := n) (a := s.reg m)
    (k := fun v u => finish ((u.setReg m (s.reg m + n.size)).setReg r (extendLoad n v)))
    fun _ => stops_finish _ (by have := afterLoad_few s n (s.reg m); simp only [setReg_deviceLog]; omega)

theorem stops_storeDecAt {n : Width} {r : Reg} {v : DWord} : StopsFor s (storeDecAt n r v s) :=
  stops_withStore (v := v) (k := fun u => finish (u.setReg r (s.reg r - n.size)))
    (stops_finish _ (by have := writeMem_few s n (s.reg r - n.size) v; simp; omega))

/-- Everything the result of an instruction may be. -/
theorem exec_stops (i : Instr) : StopsFor s (exec i s) := by
  cases i
  case bt | bf | bts | bfs => refine stops_guard ?_; split <;> exact stops_next _
  case casl m n =>
    refine stops_withLoad (n := .long) (a := s.reg 0)
      (k := fun old u => finish ((if old = s.reg m then (u.writeMem .long (s.reg 0) (s.reg n)).withT true
        else u.withT false).setReg n old)) fun _ => ?_
    have h1 := afterLoad_few s .long (s.reg 0)
    have h2 := writeMem_few (s.afterLoad .long (s.reg 0)) .long (s.reg 0) (s.reg n)
    refine stops_finish _ ?_
    split <;> simp only [setReg_deviceLog, withT_deviceLog] <;> omega
  case trapa | brk => exact stops_guard (stops_raise _ _)
  case stsl | stcl => exact stops_guard stops_storeDecAt
  case ldsl m _ | ldcl m _ =>
    exact stops_guard (stops_withLoad fun _ => stops_finish _
      (by have := afterLoad_few s .long (s.reg m); simp; omega))
  case movbStorePc | movwStorePc | movlStorePc => exact stops_guard stops_storeAt
  case movbLoadPc | movwLoadPc | movlLoadPc | movwLoadPcDisp | movlLoadPcDisp => exact stops_guard stops_loadTo
  case bsrf | braf | rts | rtsN | jsr | jmp | braN | bra | bsr | rte | sleep => exact stops_guard (stops_next _)
  case stc | sts | lds | ldc | leab | mova => exact stops_guard (stops_finish _)
  case ldtlb | movual | movualDec | jsrN | rtvN => exact stops_illegal _
  case movbStoreDec | movwStoreDec | movlStoreDec => exact stops_storeDecAt
  case movbLoadInc | movwLoadInc | movlLoadInc => exact stops_loadIncTo
  case movbStoreR0 | movwStoreR0 | movlStoreR0 | movlStoreDisp | movbStore | movwStore | movlStore | movbStoreDisp |
      movwStoreDisp | movbStoreGbr | movwStoreGbr | movlStoreGbr | movcal => exact stops_storeAt
  case movbLoadR0 | movwLoadR0 | movlLoadR0 | movlLoadDisp | movbLoad | movwLoad | movlLoad | movbLoadDisp |
      movwLoadDisp | movbLoadGbr | movwLoadGbr | movlLoadGbr => exact stops_loadTo
  all_goals exact stops_finish _

end Sys2Proof.Machine
end

