-- ==== Sys2Proof/Laws/Values.lean ====
section
/-! SUPPORT. What each value computation delivers, in integers: the flag computations, the extensions, the products, the
division step and the dynamic shifts. -/

namespace Sys2Proof.Machine

/-- A flag is 0 or 1. -/
theorem bit_le (c : Bool) : bit c ≤ 1 := by cases c <;> decide

/-- The number of a decided fact. -/
theorem bit_of_true {p : Prop} [Decidable p] (h : p) : bit (decide p) = 1 := by rw [decide_eq_true h]; rfl
theorem bit_of_false {p : Prop} [Decidable p] (h : ¬p) : bit (decide p) = 0 := by rw [decide_eq_false h]; rfl

/-- Add with carry is exact: result and carry together are the whole sum (R354). -/
theorem addCarry_exact (a b : DWord) (c : Bool) :
    (addCarry a b c).1.toNat + 2 ^ 32 * bit (addCarry a b c).2 = a.toNat + b.toNat + bit c := by
  have ha := a.isLt
  have hb := b.isLt
  have hc := bit_le c
  simp only [addCarry, BitVec.toNat_ofNat]
  by_cases h : 2 ^ 32 ≤ a.toNat + b.toNat + bit c
  · rw [bit_of_true h]; omega
  · rw [bit_of_false h]; omega

/-- Subtract with borrow is exact: result less the borrow is the whole difference (R351, R358). -/
theorem subBorrow_exact (a b : DWord) (c : Bool) :
    ((subBorrow a b c).1.toNat : Int) - 2 ^ 32 * bit (subBorrow a b c).2 = (a.toNat : Int) - b.toNat - bit c := by
  have ha := a.isLt
  have hb := b.isLt
  have hc := bit_le c
  simp only [subBorrow, BitVec.toNat_ofInt]
  by_cases h : (a.toNat : Int) - b.toNat - bit c < 0
  · rw [bit_of_true h]; omega
  · rw [bit_of_false h]; omega

/-- An exact result overflows when the wrapped one differs from it (R352, R355). -/
theorem overflows_iff (x : Int) : overflows x = decide ((BitVec.ofInt 32 x).toInt ≠ x) := by
  rw [Bool.eq_iff_iff]
  simp only [overflows, Bool.or_eq_true, decide_eq_true_eq, BitVec.toInt_ofInt, Int.bmod_def, ne_eq]
  norm_num
  split <;> omega

/-- The signed sum wraps. -/
theorem addOverflow_value (a b : DWord) : (addOverflow a b).1 = a + b := by
  simp [addOverflow, BitVec.ofInt_add]

/-- The signed difference wraps. -/
theorem subOverflow_value (a b : DWord) : (subOverflow a b).1 = a - b := by
  simp [subOverflow, sub_eq_add_neg, BitVec.ofInt_add, BitVec.ofInt_neg]

/-- T of `ADDV` (R355). -/
theorem addOverflow_flag (a b : DWord) :
    (addOverflow a b).2 = decide ((a + b).toInt ≠ a.toInt + b.toInt) := by
  show overflows (a.toInt + b.toInt) = _
  rw [overflows_iff, ← addOverflow_value]; rfl

/-- T of `SUBV` (R352). -/
theorem subOverflow_flag (a b : DWord) :
    (subOverflow a b).2 = decide ((a - b).toInt ≠ a.toInt - b.toInt) := by
  show overflows (a.toInt - b.toInt) = _
  rw [overflows_iff, ← subOverflow_value]; rfl

/-- A byte of an exclusive or is 0 when the bytes are equal. -/
theorem xor_byte_eq_zero (a b : DWord) (k : Nat) :
    ((a ^^^ b).extractLsb' k 8 == 0#8) = (a.extractLsb' k 8 == b.extractLsb' k 8) := by
  rw [Bool.eq_iff_iff]
  simp only [beq_iff_eq, BitVec.eq_of_getLsbD_eq_iff, BitVec.getLsbD_extractLsb', BitVec.getLsbD_xor]
  refine forall_congr' fun i => forall_congr' fun hi => ?_
  simp [hi]

/-- `CMPSTR` in the words of R329. -/
theorem someByteEqual_eq (a b : DWord) :
    someByteEqual a b = (List.range 4).any fun k => a.extractLsb' (8 * k) 8 == b.extractLsb' (8 * k) 8 := by
  simp only [someByteEqual, xor_byte_eq_zero, List.range_succ, List.range_zero, List.nil_append, List.cons_append,
    List.any_cons, List.any_nil, Bool.or_false]
  rw [Bool.eq_iff_iff]
  simp only [Bool.or_eq_true]
  tauto

/-- A shifted value with a bit shifted in, as a number (R307). -/
theorem shiftIn_toNat (v : DWord) (t : Bool) : ((v <<< 1) ||| bitDWord t).toNat = (2 * v.toNat + bit t) % 2 ^ 32 := by
  have hv := v.isLt
  rw [BitVec.toNat_or, BitVec.toNat_shiftLeft, Nat.shiftLeft_eq]
  have h1 : (bitDWord t).toNat = bit t := by cases t <;> rfl
  have hc := bit_le t
  have h2 : v.toNat * 2 ^ 1 % 2 ^ 32 = 2 ^ 1 * (v.toNat % 2 ^ 31) := by omega
  rw [h1, h2, ← Nat.two_pow_add_eq_or_of_lt (i := 1) (by omega)]
  omega

/-- The carry and the value of one division step (R307). -/
theorem divStep_spec (v d : DWord) (q m t : Bool) :
    ∃ c : Bool,
      (q = m → ((divStep v d q m t).1.toNat : Int) - 2 ^ 32 * bit c = ((2 * v.toNat + bit t) % 2 ^ 32 : Nat) - (d.toNat : Int)) ∧
      (q ≠ m → (divStep v d q m t).1.toNat + 2 ^ 32 * bit c = (2 * v.toNat + bit t) % 2 ^ 32 + d.toNat) ∧
      (divStep v d q m t).2.1 = (v.getLsbD 31 ^^ c ^^ m) ∧
      (divStep v d q m t).2.2 = decide ((divStep v d q m t).2.1 = m) := by
  have hd := d.isLt
  have ha := ((v <<< 1) ||| bitDWord t).isLt
  refine ⟨if q = m then decide (((v <<< 1) ||| bitDWord t).toNat < d.toNat)
    else decide (2 ^ 32 ≤ ((v <<< 1) ||| bitDWord t).toNat + d.toNat), ?_, ?_, ?_, ?_⟩
  · intro h
    rw [← shiftIn_toNat]
    simp only [divStep, h, if_true]
    generalize (v <<< 1) ||| bitDWord t = a at ha ⊢
    rw [BitVec.toNat_sub]
    by_cases hl : a.toNat < d.toNat
    · rw [bit_of_true hl]; omega
    · rw [bit_of_false hl]; omega
  · intro h
    rw [← shiftIn_toNat]
    simp only [divStep, h, if_false]
    generalize (v <<< 1) ||| bitDWord t = a at ha ⊢
    rw [BitVec.toNat_add]
    by_cases hl : 2 ^ 32 ≤ a.toNat + d.toNat
    · rw [bit_of_true hl]; omega
    · rw [bit_of_false hl]; omega
  · simp only [divStep, BitVec.msb_eq_getLsbD_last]
  · simp only [divStep]
    rw [Bool.eq_iff_iff]; simp

/-- The low byte or word, read as unsigned (R9). -/
theorem zext8_eq (v : DWord) : zext8 v = BitVec.ofNat 32 (v.toNat % 2 ^ 8) := by
  apply BitVec.eq_of_toNat_eq; simp [zext8]
theorem zext16_eq (v : DWord) : zext16 v = BitVec.ofNat 32 (v.toNat % 2 ^ 16) := by
  apply BitVec.eq_of_toNat_eq; simp [zext16]

/-- The low byte or word, read as signed (R9). -/
theorem sext8_eq (v : DWord) : sext8 v = BitVec.ofInt 32 (v.extractLsb' 0 8).toInt := rfl
theorem sext16_eq (v : DWord) : sext16 v = BitVec.ofInt 32 (v.extractLsb' 0 16).toInt := rfl

/-- The two halves of the unsigned product (R303). -/
theorem productUnsigned_halves (a b : DWord) :
    ((productUnsigned a b).extractLsb' 32 32).toNat * 2 ^ 32 + ((productUnsigned a b).extractLsb' 0 32).toNat =
      a.toNat * b.toNat := by
  have h : a.toNat * b.toNat < 2 ^ 64 := by
    have := Nat.mul_lt_mul'' a.isLt b.isLt
    norm_num at this ⊢; exact this
  simp only [productUnsigned, BitVec.extractLsb'_toNat, BitVec.toNat_ofNat,
    Nat.shiftRight_eq_div_pow]
  generalize a.toNat * b.toNat = x at h ⊢
  omega

/-- The two halves of a 64-bit value, the upper one signed. -/
theorem signed_halves (p : BitVec 64) :
    (p.extractLsb' 32 32).toInt * 2 ^ 32 + ((p.extractLsb' 0 32).toNat : Int) = p.toInt := by
  have h := p.isLt
  simp only [BitVec.toInt_eq_toNat_cond, BitVec.extractLsb'_toNat, Nat.shiftRight_eq_div_pow]
  split <;> split <;> omega

/-- The two halves of the signed product (R304). -/
theorem productSigned_halves (a b : DWord) :
    ((productSigned a b).extractLsb' 32 32).toInt * 2 ^ 32 + (((productSigned a b).extractLsb' 0 32).toNat : Int) =
      a.toInt * b.toInt := by
  rw [signed_halves]
  simp only [productSigned, BitVec.toInt_ofInt]
  have ha := a.toInt_lt
  have hb := b.toInt_lt
  have ha' := a.le_toInt
  have hb' := b.le_toInt
  norm_num at ha hb ha' hb'
  have h : |a.toInt * b.toInt| ≤ 2147483648 * 2147483648 := by
    rw [abs_mul]
    exact mul_le_mul (abs_le.mpr ⟨by omega, by omega⟩) (abs_le.mpr ⟨by omega, by omega⟩) (abs_nonneg _) (by norm_num)
  have h' := abs_le.mp h
  rw [Int.bmod_eq_of_le] <;> omega

/-- The one-bit shifts and rotates as numbers (R380 to R387). -/
theorem shiftLeft_eq_ofNat (v : DWord) (k : Nat) : v <<< k = BitVec.ofNat 32 (v.toNat * 2 ^ k) := by
  apply BitVec.eq_of_toNat_eq; simp [Nat.shiftLeft_eq]
theorem shiftRight_eq_ofNat (v : DWord) (k : Nat) : v >>> k = BitVec.ofNat 32 (v.toNat / 2 ^ k) := by
  apply BitVec.eq_of_toNat_eq
  have h : v.toNat / 2 ^ k < 2 ^ 32 := Nat.lt_of_le_of_lt (Nat.div_le_self _ _) v.isLt
  simp only [BitVec.toNat_ushiftRight, Nat.shiftRight_eq_div_pow, BitVec.toNat_ofNat, Nat.mod_eq_of_lt h]
theorem sshiftRight_eq_ofInt (v : DWord) (k : Nat) : v.sshiftRight k = BitVec.ofInt 32 (v.toInt / 2 ^ k) := by
  simp [BitVec.sshiftRight, Int.shiftRight_eq_div_pow]

/-- A bit shifted in at the top, as a number (R387). -/
theorem shiftInTop_eq (v : DWord) (t : Bool) :
    (v >>> 1) ||| (bitDWord t <<< 31) = BitVec.ofNat 32 (v.toNat / 2 + 2 ^ 31 * bit t) := by
  apply BitVec.eq_of_toNat_eq
  have hv := v.isLt
  rw [BitVec.toNat_or, BitVec.toNat_ushiftRight, Nat.shiftRight_eq_div_pow, BitVec.toNat_ofNat, Nat.or_comm]
  have h1 : (bitDWord t <<< 31).toNat = 2 ^ 31 * bit t := by cases t <;> rfl
  have hc := bit_le t
  rw [h1, ← Nat.two_pow_add_eq_or_of_lt (i := 31) (by omega)]
  omega

/-- The count of a dynamic shift (R398). -/
theorem amount_toNat (a : DWord) : (a.extractLsb' 0 5).toNat = a.toNat % 32 := by simp

/-- `SHLD` to the left (R397, R398). -/
theorem shiftLogical_left (v a : DWord) (h : 0 ≤ a.toInt) :
    shiftLogical v a = BitVec.ofNat 32 (v.toNat * 2 ^ (a.toNat % 32)) := by
  have hm : a.msb = false := by simpa [BitVec.msb_eq_toInt] using h
  simp only [shiftLogical, hm, if_true, amount_toNat, shiftLeft_eq_ofNat]

/-- `SHLD` to the right (R397, R398). -/
theorem shiftLogical_right (v a : DWord) (h : a.toInt < 0) :
    shiftLogical v a = BitVec.ofNat 32 (v.toNat / 2 ^ (32 - a.toNat % 32)) := by
  have hm : a.msb = true := by simpa [BitVec.msb_eq_toInt] using h
  have hv := v.isLt
  simp only [shiftLogical, hm, amount_toNat, shiftRight_eq_ofNat, Bool.true_eq_false, if_false]
  split
  · rename_i h0; rw [h0, Nat.div_eq_of_lt (by norm_num; omega)]; rfl
  · rfl

/-- `SHAD` to the left is `SHLD` (R396, R398). -/
theorem shiftArithmetic_left (v a : DWord) (h : 0 ≤ a.toInt) :
    shiftArithmetic v a = BitVec.ofNat 32 (v.toNat * 2 ^ (a.toNat % 32)) := by
  have hm : a.msb = false := by simpa [BitVec.msb_eq_toInt] using h
  simp only [shiftArithmetic, hm, if_true, amount_toNat, shiftLeft_eq_ofNat]

/-- `SHAD` to the right (R396, R398). -/
theorem shiftArithmetic_right (v a : DWord) (h : a.toInt < 0) :
    shiftArithmetic v a = BitVec.ofInt 32 (v.toInt / 2 ^ (32 - a.toNat % 32)) := by
  have hm : a.msb = true := by simpa [BitVec.msb_eq_toInt] using h
  have hv := v.toInt_lt
  have hv' := v.le_toInt
  simp only [shiftArithmetic, hm, amount_toNat, sshiftRight_eq_ofInt, Bool.true_eq_false, if_false]
  split
  · rename_i h0
    rw [h0, BitVec.msb_eq_toInt]
    norm_num at hv hv' ⊢
    split
    · rw [show v.toInt / 4294967296 = -1 by omega]; rfl
    · rw [show v.toInt / 4294967296 = 0 by omega]; rfl
  · rfl

end Sys2Proof.Machine
end

