-- ==== Sys2Proof/Tests/Slice0.lean ====
section
/-! SUPPORT. Tests: the checks of WellFormed, the decoding of every row, runs of one instruction with the results of the
spec's test vectors (files 95 and 96), and a witness for the hypotheses of each statement. -/

namespace Sys2Proof.Machine

/-- `s` with some of `x[0]` to `x[15]` set. -/
def State.put (s : State) (l : List (Reg × DWord)) : State := l.foldl (fun s c => s.setReg c.1 c.2) s

/-- `s` with a value in memory, its units fresh. -/
def State.poke (s : State) (n : Width) (a v : DWord) : State := s.writeBytes n a v

end Sys2Proof.Machine

namespace Sys2Proof.Tests

open Sys2Proof.Machine Sys2Proof.Claim

/-- The default start state of file 95: supervisor mode, Bank B mapped, pc = 0x1000. -/
def start : State := { State.reset with sr := 0x600000F0, pc := 0x1000 }

/-- The user mode of file 95. -/
def user : State := { start with sr := 0x000000F0 }

/-- In the delay slot of a branch to 0x3000. -/
def slot : State := { start with pc := 0x1002, delayTarget := some 0x3000 }

/-- The result is a next state, and `p` holds of it. -/
def nextIs (r : Result) (p : State → Bool) : Bool :=
  match r with
  | .next t => p t
  | .fault _ => false
  | .refused _ => false

/-- The instruction of a word, run without a fetch. -/
def run (w : Word) (s : State) : Result := runWord exec w s

/-! WellFormed: one ill-formed instruction for each check, and well-formed ones beside them. -/

theorem test_wf_unimplemented_row : Instr.ldtlb.wellFormed = false ∧ (Instr.movual 1).wellFormed = false ∧
    (Instr.movualDec 1).wellFormed = false ∧ (Instr.jsrN 1).wellFormed = false ∧ (Instr.rtvN 1).wellFormed = false := by
  decide

theorem test_wf_unnamed_sys_index : (Instr.sts 4 1).wellFormed = false ∧ (Instr.stsl 7 1).wellFormed = false ∧
    (Instr.lds 1 14).wellFormed = false ∧ (Instr.ldsl 1 8).wellFormed = false ∧ (Instr.sts 15 1).wellFormed = true := by
  decide

theorem test_wf_unnamed_cr_read : (Instr.stc 5 1).wellFormed = false ∧ (Instr.stcl 6 1).wellFormed = false ∧
    (Instr.stc 7 1).wellFormed = true := by decide

theorem test_wf_unwritable_cr : (Instr.ldc 1 5).wellFormed = false ∧ (Instr.ldcl 1 6).wellFormed = false ∧
    (Instr.ldc 1 7).wellFormed = false ∧ (Instr.ldcl 1 7).wellFormed = false ∧ (Instr.ldc 1 8).wellFormed = true := by
  decide

/-! Decoding: every row of the table, its word written out from the row's bits with n = 11, m = 2, o = 1, d = 12, 0x96 or
0x9A5, i = 0x81, j = 0xF3. -/

theorem test_decode_system :
    decode 0x0B22 = .ok (.stc 2 11) ∧ decode 0x0B2A = .ok (.sts 2 11) ∧ decode 0x4B22 = .ok (.stsl 2 11) ∧
    decode 0x4B23 = .ok (.stcl 2 11) ∧ decode 0x4216 = .ok (.ldsl 2 1) ∧ decode 0x4217 = .ok (.ldcl 2 1) ∧
    decode 0x421A = .ok (.lds 2 1) ∧ decode 0x421E = .ok (.ldc 2 1) ∧ decode 0x0008 = .ok .clrt ∧
    decode 0x0018 = .ok .sett ∧ decode 0x0028 = .ok .clrmac ∧ decode 0x0048 = .ok .clrs ∧
    decode 0x0058 = .ok .sets ∧ decode 0x0068 = .ok .nott ∧ decode 0x0309 = .ok (.nop 3) ∧
    decode 0x0B29 = .ok (.movt 11) ∧ decode 0x0B39 = .ok (.movrt 11) := by decide

theorem test_decode_branch :
    decode 0x0203 = .ok (.bsrf 2) ∧ decode 0x0223 = .ok (.braf 2) ∧ decode 0x000B = .ok .rts ∧
    decode 0x006B = .ok .rtsN ∧ decode 0x420B = .ok (.jsr 2) ∧ decode 0x422B = .ok (.jmp 2) ∧
    decode 0x8296 = .ok (.braN 0x96) ∧ decode 0x8996 = .ok (.bt 0x96) ∧ decode 0x8B96 = .ok (.bf 0x96) ∧
    decode 0x8D96 = .ok (.bts 0x96) ∧ decode 0x8F96 = .ok (.bfs 0x96) ∧ decode 0xA9A5 = .ok (.bra 0x9A5) ∧
    decode 0xB9A5 = .ok (.bsr 0x9A5) := by decide

theorem test_decode_cacheatomic :
    decode 0x0B83 = .ok (.pref 11) ∧ decode 0x0BC3 = .ok (.movcal 11) ∧ decode 0x0BE3 = .ok (.icbi 11) ∧
    decode 0x2B23 = .ok (.casl 2 11) := by decide

theorem test_decode_transfer_1 :
    decode 0x0B24 = .ok (.movbStoreR0 2 11) ∧ decode 0x0B25 = .ok (.movwStoreR0 2 11) ∧
    decode 0x0B26 = .ok (.movlStoreR0 2 11) ∧ decode 0x0B2C = .ok (.movbLoadR0 2 11) ∧
    decode 0x0B2D = .ok (.movwLoadR0 2 11) ∧ decode 0x0B2E = .ok (.movlLoadR0 2 11) ∧
    decode 0x1B2C = .ok (.movlStoreDisp 2 11 12) ∧ decode 0x2B20 = .ok (.movbStore 2 11) ∧
    decode 0x2B21 = .ok (.movwStore 2 11) ∧ decode 0x2B22 = .ok (.movlStore 2 11) ∧
    decode 0x2B24 = .ok (.movbStoreDec 2 11) ∧ decode 0x2B25 = .ok (.movwStoreDec 2 11) ∧
    decode 0x2B26 = .ok (.movlStoreDec 2 11) ∧ decode 0x42C1 = .ok (.movbStorePc 2) ∧
    decode 0x42D1 = .ok (.movwStorePc 2) ∧ decode 0x42E1 = .ok (.movlStorePc 2) ∧
    decode 0x4BC5 = .ok (.movbLoadPc 11) ∧ decode 0x4BD5 = .ok (.movwLoadPc 11) ∧
    decode 0x4BE5 = .ok (.movlLoadPc 11) ∧ decode 0x4BF5 = .ok (.leab 11) ∧
    decode 0x5B2C = .ok (.movlLoadDisp 2 12 11) := by decide

theorem test_decode_transfer_2 :
    decode 0x6B20 = .ok (.movbLoad 2 11) ∧ decode 0x6B21 = .ok (.movwLoad 2 11) ∧
    decode 0x6B22 = .ok (.movlLoad 2 11) ∧ decode 0x6B23 = .ok (.mov 2 11) ∧
    decode 0x6B24 = .ok (.movbLoadInc 2 11) ∧ decode 0x6B25 = .ok (.movwLoadInc 2 11) ∧
    decode 0x6B26 = .ok (.movlLoadInc 2 11) ∧ decode 0x80BC = .ok (.movbStoreDisp 11 12) ∧
    decode 0x81BC = .ok (.movwStoreDisp 11 12) ∧ decode 0x842C = .ok (.movbLoadDisp 2 12) ∧
    decode 0x852C = .ok (.movwLoadDisp 2 12) ∧ decode 0x9B96 = .ok (.movwLoadPcDisp 0x96 11) ∧
    decode 0xC096 = .ok (.movbStoreGbr 0x96) ∧ decode 0xC196 = .ok (.movwStoreGbr 0x96) ∧
    decode 0xC296 = .ok (.movlStoreGbr 0x96) ∧ decode 0xC496 = .ok (.movbLoadGbr 0x96) ∧
    decode 0xC596 = .ok (.movwLoadGbr 0x96) ∧ decode 0xC696 = .ok (.movlLoadGbr 0x96) ∧
    decode 0xC796 = .ok (.mova 0x96) ∧ decode 0xDB96 = .ok (.movlLoadPcDisp 0x96 11) ∧
    decode 0xEB81 = .ok (.movImm 0x81 11) := by decide

theorem test_decode_muldiv :
    decode 0x0B27 = .ok (.mull 2 11) ∧ decode 0x2B2E = .ok (.muluw 2 11) ∧ decode 0x2B2F = .ok (.mulsw 2 11) ∧
    decode 0x3B25 = .ok (.dmulul 2 11) ∧ decode 0x3B2D = .ok (.dmulsl 2 11) ∧ decode 0x0019 = .ok .div0u ∧
    decode 0x2B27 = .ok (.div0s 2 11) ∧ decode 0x3B24 = .ok (.div1 2 11) := by decide

theorem test_decode_logic :
    decode 0x2B28 = .ok (.tst 2 11) ∧ decode 0x2B29 = .ok (.and 2 11) ∧ decode 0x2B2A = .ok (.xor 2 11) ∧
    decode 0x2B2B = .ok (.or 2 11) ∧ decode 0x6B27 = .ok (.not 2 11) ∧ decode 0xC8F3 = .ok (.tstImm 0xF3) ∧
    decode 0xC9F3 = .ok (.andImm 0xF3) ∧ decode 0xCAF3 = .ok (.xorImm 0xF3) ∧ decode 0xCBF3 = .ok (.orImm 0xF3) ∧
    decode 0x2B2C = .ok (.cmpstr 2 11) ∧ decode 0x3B20 = .ok (.cmpeq 2 11) ∧ decode 0x3B22 = .ok (.cmphs 2 11) ∧
    decode 0x3B23 = .ok (.cmpge 2 11) ∧ decode 0x3B26 = .ok (.cmphi 2 11) ∧ decode 0x3B27 = .ok (.cmpgt 2 11) ∧
    decode 0x4B11 = .ok (.cmppz 11) ∧ decode 0x4B15 = .ok (.cmppl 11) ∧ decode 0x8881 = .ok (.cmpeqImm 0x81) := by decide

theorem test_decode_arith :
    decode 0x3B28 = .ok (.sub 2 11) ∧ decode 0x3B2A = .ok (.subc 2 11) ∧ decode 0x3B2B = .ok (.subv 2 11) ∧
    decode 0x3B2C = .ok (.add 2 11) ∧ decode 0x3B2E = .ok (.addc 2 11) ∧ decode 0x3B2F = .ok (.addv 2 11) ∧
    decode 0x7B81 = .ok (.addImm 0x81 11) ∧ decode 0x6B2B = .ok (.neg 2 11) ∧ decode 0x6B2A = .ok (.negc 2 11) ∧
    decode 0x4B10 = .ok (.dt 11) ∧ decode 0x6B2C = .ok (.extub 2 11) ∧ decode 0x6B2D = .ok (.extuw 2 11) ∧
    decode 0x6B2E = .ok (.extsb 2 11) ∧ decode 0x6B2F = .ok (.extsw 2 11) ∧ decode 0x6B28 = .ok (.swapb 2 11) ∧
    decode 0x6B29 = .ok (.swapw 2 11) ∧ decode 0x2B2D = .ok (.xtrct 2 11) := by decide

theorem test_decode_shift :
    decode 0x4B00 = .ok (.shll 11) ∧ decode 0x4B20 = .ok (.shal 11) ∧ decode 0x4B01 = .ok (.shlr 11) ∧
    decode 0x4B21 = .ok (.shar 11) ∧ decode 0x4B04 = .ok (.rotl 11) ∧ decode 0x4B05 = .ok (.rotr 11) ∧
    decode 0x4B24 = .ok (.rotcl 11) ∧ decode 0x4B25 = .ok (.rotcr 11) ∧ decode 0x4B08 = .ok (.shll2 11) ∧
    decode 0x4B18 = .ok (.shll8 11) ∧ decode 0x4B28 = .ok (.shll16 11) ∧ decode 0x4B09 = .ok (.shlr2 11) ∧
    decode 0x4B19 = .ok (.shlr8 11) ∧ decode 0x4B29 = .ok (.shlr16 11) ∧ decode 0x4B34 = .ok (.shll4 11) ∧
    decode 0x4B35 = .ok (.shlr4 11) ∧ decode 0x4B2C = .ok (.shad 2 11) ∧ decode 0x4B2D = .ok (.shld 2 11) := by decide

theorem test_decode_trap :
    decode 0xC3F3 = .ok (.trapa 0xF3) ∧ decode 0x002B = .ok .rte ∧ decode 0x001B = .ok .sleep ∧
    decode 0x003B = .ok .brk := by decide

theorem test_decode_unimplemented :
    decode 0x0038 = .ok .ldtlb ∧ decode 0x02A9 = .ok (.movual 2) ∧ decode 0x02E9 = .ok (.movualDec 2) ∧
    decode 0x424B = .ok (.jsrN 2) ∧ decode 0x027B = .ok (.rtvN 2) := by decide

theorem test_decode_reserved : decode 0x0000 = .error .reserved32 ∧ decode 0xF123 = .error .fpuBlock ∧
    decode 0x400F = .error .extensionSlot ∧ decode 0x8300 = .error .extensionSlot ∧ decode 0x0093 = .error .unlisted ∧
    decode 0x0108 = .error .unlisted ∧ decode 0x4080 = .error .unlisted := by decide

theorem test_decode_byte_order : decodeBytes .little [0x1C, 0x32] = .ok (.add 1 2, []) ∧
    decodeBytes .big [0x32, 0x1C, 0xFF] = .ok (.add 1 2, [0xFF]) ∧ decodeBytes .big [0x32] = .error .truncated := by
  decide

theorem test_table_word : decodeTableWord 16 0x321C = some (.add 1 2) ∧ decodeTableWord 16 0xFFFF = none := by decide

/-! One instruction: the vectors of files 95 and 96 named at each. -/

/-- V40.16, V40.25, V40.31, V40.35, V40.39, V40.45, V40.57, V40.61, V40.74, V40.77, V40.78, V40.79, V40.80, V40.81. -/
theorem test_run_system_1 :
    nextIs (run 0x0112 { start with sr := 0x000000F0, gbr := 0xCAFEF00D })
      (fun t => t.reg 1 == 0xCAFEF00D && t.pc == 0x1002) &&
    nextIs (run 0x042A { start with sr := 0x000000F0, pr := 0x2222 })
      (fun t => t.reg 4 == 0x2222 && t.pc == 0x1002) &&
    nextIs (run 0x4F22 ({ start with pr := 0x1234 }.put [(15, 0x8000)]))
      (fun t => t.reg 15 == 0x7FFC && t.readMem .long 0x7FFC == 0x1234 && t.pc == 0x1002) &&
    nextIs (run 0x4F03 ({ start with sr := 0x600000F1 }.put [(15, 0x8000)]))
      (fun t => t.reg 15 == 0x7FFC && t.readMem .long 0x7FFC == 0x600000F1 && t.pc == 0x1002) &&
    nextIs (run 0x4106 ((start.put [(1, 0x2000)]).poke .long 0x2000 0x89ABCDEF))
      (fun t => t.reg 1 == 0x2004 && t.mach == 0x89ABCDEF && t.pc == 0x1002) &&
    nextIs (run 0x4807 ((start.put [(8, 0x2000)]).poke .long 0x2000 0xFFFFFFFF))
      (fun t => t.reg 8 == 0x2004 && t.sr == 0x700083F3 && t.pc == 0x1002) &&
    nextIs (run 0x452A ({ start with sr := 0x000000F0 }.put [(5, 0x1234)]))
      (fun t => t.pr == 0x1234 && t.pc == 0x1002) &&
    nextIs (run 0x490E (start.put [(9, 0xFFFFFFFF)]))
      (fun t => t.sr == 0x700083F3 && t.pc == 0x1002) &&
    nextIs (run 0x0008 { start with sr := 0x600000F1 })
      (fun t => !t.t && t.pc == 0x1002) &&
    nextIs (run 0x0018 { start with sr := 0x000000F0 })
      (fun t => t.t && t.pc == 0x1002) &&
    nextIs (run 0x0028 { start with mach := 0x12345678, macl := 0x9ABCDEF0 })
      (fun t => t.mach == 0x0 && t.macl == 0x0 && t.pc == 0x1002) &&
    nextIs (run 0x0048 { start with sr := 0x600000F2 })
      (fun t => !t.s && t.pc == 0x1002) &&
    nextIs (run 0x0058 start)
      (fun t => t.s && t.pc == 0x1002) &&
    nextIs (run 0x0068 start)
      (fun t => t.t && t.pc == 0x1002) = true := by decide

/-- V40.83, V40.85, V40.87. -/
theorem test_run_system_2 :
    nextIs (run 0x0009 start)
      (fun t => t.pc == 0x1002) &&
    nextIs (run 0x0629 ({ start with sr := 0x600000F1 }.put [(6, 0xFFFFFFFF)]))
      (fun t => t.reg 6 == 0x1 && t.pc == 0x1002) &&
    nextIs (run 0x0639 ({ start with sr := 0x600000F1 }.put [(6, 0xFFFFFFFF)]))
      (fun t => t.reg 6 == 0x0 && t.pc == 0x1002) = true := by decide

/-- V41.2, V41.7, V41.8, V41.10, V41.12, V41.15, V41.16, V41.21, V41.27, V41.29, V41.31, V41.33, V41.40. -/
theorem test_run_branch :
    nextIs (run 0x0103 (start.put [(1, 0xFFFFFFFC)]))
      (fun t => t.pr == 0x1004 && t.pc == 0x1002 && t.delayTarget == some 0x1000) &&
    nextIs (run 0x0223 ({ start with pc := 0xFFFFFFFC }.put [(2, 0x10)]))
      (fun t => t.pc == 0xFFFFFFFE && t.delayTarget == some 0x10) &&
    nextIs (run 0x000B { start with pr := 0x2000 })
      (fun t => t.pc == 0x1002 && t.delayTarget == some 0x2000) &&
    nextIs (run 0x006B { start with pr := 0x2000 })
      (fun t => t.pc == 0x2000) &&
    nextIs (run 0x430B (start.put [(3, 0x4000)]))
      (fun t => t.pr == 0x1004 && t.pc == 0x1002 && t.delayTarget == some 0x4000) &&
    nextIs (run 0x4F2B (start.put [(15, 0x4002)]))
      (fun t => t.pc == 0x1002 && t.delayTarget == some 0x4002) &&
    nextIs (run 0x8203 start)
      (fun t => t.pc == 0x100A) &&
    nextIs (run 0x8910 { start with sr := 0x600000F1 })
      (fun t => t.pc == 0x1024) &&
    nextIs (run 0x8BFC start)
      (fun t => t.pc == 0xFFC) &&
    nextIs (run 0x8D10 { start with sr := 0x600000F1 })
      (fun t => t.pc == 0x1002 && t.delayTarget == some 0x1024) &&
    nextIs (run 0x8FFD start)
      (fun t => t.pc == 0x1002 && t.delayTarget == some 0xFFE) &&
    nextIs (run 0xA010 start)
      (fun t => t.pc == 0x1002 && t.delayTarget == some 0x1024) &&
    nextIs (run 0xB100 { start with pc := 0xFFFFFFFE })
      (fun t => t.pr == 0x2 && t.pc == 0x0 && t.delayTarget == some 0x202) = true := by decide

/-- V42.2, V42.3, V42.7, V42.8. -/
theorem test_run_cache_atomic :
    nextIs (run 0x0183 ({ start with sr := 0x000000F0 }.put [(1, 0x2000)]))
      (fun t => t.pc == 0x1002) &&
    nextIs (run 0x01C3 (start.put [(0, 0x11223344), (1, 0x2000)]))
      (fun t => t.readMem .long 0x2000 == 0x11223344 && t.pc == 0x1002) &&
    nextIs (run 0x01E3 ({ start with sr := 0x000000F0 }.put [(1, 0x1235)]))
      (fun t => t.pc == 0x1002) &&
    nextIs (run 0x2213 ((start.put [(0, 0x2000), (1, 0x5), (2, 0x9)]).poke .long 0x2000 0x5))
      (fun t => t.reg 2 == 0x5 && t.t && t.readMem .long 0x2000 == 0x9 && t.pc == 0x1002) = true := by decide

/-- V43.1, V43.2, V43.6, V43.9, V43.10, V43.12, V43.14, V43.21, V43.22, V43.26, V43.27, V43.28, V43.30, V43.34. -/
theorem test_run_transfer_1 :
    nextIs (run 0x0214 (start.put [(0, 0x10), (1, 0x123456AB), (2, 0x2001)]))
      (fun t => t.readMem .byte 0x2011 == 0xAB && t.pc == 0x1002) &&
    nextIs (run 0x0215 (start.put [(0, 0x10), (1, 0x1234ABCD), (2, 0x2000)]))
      (fun t => t.readMem .word 0x2010 == 0xABCD && t.pc == 0x1002) &&
    nextIs (run 0x0216 (start.put [(0, 0xFFFFFFFC), (1, 0x89ABCDEF), (2, 0x2004)]))
      (fun t => t.readMem .long 0x2000 == 0x89ABCDEF && t.pc == 0x1002) &&
    nextIs (run 0x032C ((start.put [(0, 0x1), (2, 0x2000)]).poke .byte 0x2001 0x7F))
      (fun t => t.reg 3 == 0x7F && t.pc == 0x1002) &&
    nextIs (run 0x032D ((start.put [(0, 0x2), (2, 0x2000)]).poke .word 0x2002 0x8001))
      (fun t => t.reg 3 == 0xFFFF8001 && t.pc == 0x1002) &&
    nextIs (run 0x032E ((start.put [(0, 0x4), (2, 0x2000)]).poke .long 0x2004 0x89ABCDEF))
      (fun t => t.reg 3 == 0x89ABCDEF && t.pc == 0x1002) &&
    nextIs (run 0x1210 (start.put [(1, 0xCAFEBABE), (2, 0x2000)]))
      (fun t => t.readMem .long 0x2000 == 0xCAFEBABE && t.pc == 0x1002) &&
    nextIs (run 0x2210 (start.put [(1, 0xFFFFFF80), (2, 0x2003)]))
      (fun t => t.readMem .byte 0x2003 == 0x80 && t.pc == 0x1002) &&
    nextIs (run 0x2211 (start.put [(1, 0xFFFF8001), (2, 0x2002)]))
      (fun t => t.readMem .word 0x2002 == 0x8001 && t.pc == 0x1002) &&
    nextIs (run 0x2212 (start.put [(1, 0x11223344), (2, 0xFFFFFFFC)]))
      (fun t => t.readMem .long 0xFFFFFFFC == 0x11223344 && t.pc == 0x1002) &&
    nextIs (run 0x2214 (start.put [(1, 0xAA), (2, 0x2000)]))
      (fun t => t.reg 2 == 0x1FFF && t.readMem .byte 0x1FFF == 0xAA && t.pc == 0x1002) &&
    nextIs (run 0x2215 (start.put [(1, 0xBBAA), (2, 0x2000)]))
      (fun t => t.reg 2 == 0x1FFE && t.readMem .word 0x1FFE == 0xBBAA && t.pc == 0x1002) &&
    nextIs (run 0x2F16 (start.put [(1, 0xDDCCBBAA), (15, 0x8000)]))
      (fun t => t.reg 15 == 0x7FFC && t.readMem .long 0x7FFC == 0xDDCCBBAA && t.pc == 0x1002) &&
    nextIs (run 0x41C1 (start.put [(0, 0x100), (1, 0x12345678)]))
      (fun t => t.readMem .byte 0x1104 == 0x78 && t.pc == 0x1002) = true := by decide

/-- V43.35, V43.37, V43.40, V43.41, V43.43, V43.47, V43.18, V43.49, V43.52, V43.54, V43.56, V43.59, V43.60, V43.64. -/
theorem test_run_transfer_2 :
    nextIs (run 0x41D1 (start.put [(0, 0x100), (1, 0x12345678)]))
      (fun t => t.readMem .word 0x1104 == 0x5678 && t.pc == 0x1002) &&
    nextIs (run 0x41E1 (start.put [(0, 0x100), (1, 0x12345678)]))
      (fun t => t.readMem .long 0x1104 == 0x12345678 && t.pc == 0x1002) &&
    nextIs (run 0x41C5 ((start.put [(0, 0x100)]).poke .byte 0x1104 0xFF))
      (fun t => t.reg 1 == 0xFFFFFFFF && t.pc == 0x1002) &&
    nextIs (run 0x41D5 ((start.put [(0, 0x100)]).poke .word 0x1104 0x7FFF))
      (fun t => t.reg 1 == 0x7FFF && t.pc == 0x1002) &&
    nextIs (run 0x40E5 ((start.put [(0, 0x100)]).poke .long 0x1104 0xA5A5A5A5))
      (fun t => t.reg 0 == 0xA5A5A5A5 && t.pc == 0x1002) &&
    nextIs (run 0x40F5 (start.put [(0, 0xFFFFF000)]))
      (fun t => t.reg 0 == 0x4 && t.pc == 0x1002) &&
    nextIs (run 0x532F ((start.put [(2, 0x2000)]).poke .long 0x203C 0x1020304))
      (fun t => t.reg 3 == 0x1020304 && t.pc == 0x1002) &&
    nextIs (run 0x6320 ((start.put [(2, 0x2003)]).poke .byte 0x2003 0xFF))
      (fun t => t.reg 3 == 0xFFFFFFFF && t.pc == 0x1002) &&
    nextIs (run 0x6321 ((start.put [(2, 0x2002)]).poke .word 0x2002 0x7FFE))
      (fun t => t.reg 3 == 0x7FFE && t.pc == 0x1002) &&
    nextIs (run 0x6322 (((((start.put [(2, 0x2000)]).poke .byte 0x2000 0x44).poke .byte 0x2001 0x33).poke .byte 0x2002 0x22).poke .byte 0x2003 0x11))
      (fun t => t.reg 3 == 0x11223344 && t.pc == 0x1002) &&
    nextIs (run 0x6323 (start.put [(2, 0x89ABCDEF)]))
      (fun t => t.reg 3 == 0x89ABCDEF && t.pc == 0x1002) &&
    nextIs (run 0x6324 ((start.put [(2, 0x2000)]).poke .byte 0x2000 0x81))
      (fun t => t.reg 2 == 0x2001 && t.reg 3 == 0xFFFFFF81 && t.pc == 0x1002) &&
    nextIs (run 0x6325 ((start.put [(2, 0x2000)]).poke .word 0x2000 0x102))
      (fun t => t.reg 2 == 0x2002 && t.reg 3 == 0x102 && t.pc == 0x1002) &&
    nextIs (run 0x6326 ((start.put [(2, 0xFFFFFFFC)]).poke .long 0xFFFFFFFC 0x1))
      (fun t => t.reg 2 == 0x0 && t.reg 3 == 0x1 && t.pc == 0x1002) = true := by decide

/-- V43.65, V43.66, V43.69, V43.70, V43.73, V43.86, V43.87, V43.90, V43.91, V43.92, V43.95, V43.82, V43.77, V43.96. -/
theorem test_run_transfer_3 :
    nextIs (run 0x802F (start.put [(0, 0x1FE), (2, 0x2000)]))
      (fun t => t.readMem .byte 0x200F == 0xFE && t.pc == 0x1002) &&
    nextIs (run 0x812F (start.put [(0, 0xFFFF1234), (2, 0x2000)]))
      (fun t => t.readMem .word 0x201E == 0x1234 && t.pc == 0x1002) &&
    nextIs (run 0x8423 ((start.put [(2, 0x2000)]).poke .byte 0x2003 0x90))
      (fun t => t.reg 0 == 0xFFFFFF90 && t.pc == 0x1002) &&
    nextIs (run 0x8523 ((start.put [(2, 0x2000)]).poke .word 0x2006 0x9000))
      (fun t => t.reg 0 == 0xFFFF9000 && t.pc == 0x1002) &&
    nextIs (run 0x9100 ({ start with pc := 0x1002 }.poke .word 0x1006 0x1234))
      (fun t => t.reg 1 == 0x1234 && t.pc == 0x1004) &&
    nextIs (run 0xC0FF ({ start with gbr := 0x4000 }.put [(0, 0x12345678)]))
      (fun t => t.readMem .byte 0x40FF == 0x78 && t.pc == 0x1002) &&
    nextIs (run 0xC1FF ({ start with gbr := 0x4000 }.put [(0, 0x12345678)]))
      (fun t => t.readMem .word 0x41FE == 0x5678 && t.pc == 0x1002) &&
    nextIs (run 0xC201 ({ start with gbr := 0xFFFFFFFC }.put [(0, 0x12345678)]))
      (fun t => t.readMem .long 0x0 == 0x12345678 && t.pc == 0x1002) &&
    nextIs (run 0xC402 ({ start with gbr := 0x4000 }.poke .byte 0x4002 0xF0))
      (fun t => t.reg 0 == 0xFFFFFFF0 && t.pc == 0x1002) &&
    nextIs (run 0xC502 ({ start with gbr := 0x4000 }.poke .word 0x4004 0xF000))
      (fun t => t.reg 0 == 0xFFFFF000 && t.pc == 0x1002) &&
    nextIs (run 0xC602 ({ start with sr := 0x000000F0, gbr := 0x4000 }.poke .long 0x4008 0xF0000000))
      (fun t => t.reg 0 == 0xF0000000 && t.pc == 0x1002) &&
    nextIs (run 0xC701 { start with pc := 0x1002 })
      (fun t => t.reg 0 == 0x1008 && t.pc == 0x1004) &&
    nextIs (run 0xD101 ({ start with pc := 0x1002 }.poke .long 0x1008 0x12345678))
      (fun t => t.reg 1 == 0x12345678 && t.pc == 0x1004) &&
    nextIs (run 0xE17F start)
      (fun t => t.reg 1 == 0x7F && t.pc == 0x1002) = true := by decide

/-- V44.3, V44.7, V44.11, V44.15, V44.21, V44.23, V44.25, V44.32. -/
theorem test_run_muldiv :
    nextIs (run 0x0217 (start.put [(1, 0x12345678), (2, 0x9ABCDEF0)]))
      (fun t => t.macl == 0x242D2080 && t.pc == 0x1002) &&
    nextIs (run 0x221E (start.put [(1, 0x12340002), (2, 0x56780003)]))
      (fun t => t.macl == 0x6 && t.pc == 0x1002) &&
    nextIs (run 0x221F (start.put [(1, 0x8000), (2, 0x7FFF)]))
      (fun t => t.macl == 0xC0008000 && t.pc == 0x1002) &&
    nextIs (run 0x3215 (start.put [(1, 0x12345678), (2, 0x9ABCDEF0)]))
      (fun t => t.mach == 0xB00EA4E && t.macl == 0x242D2080 && t.pc == 0x1002) &&
    nextIs (run 0x321D (start.put [(1, 0x12345678), (2, 0x9ABCDEF0)]))
      (fun t => t.mach == 0xF8CC93D6 && t.macl == 0x242D2080 && t.pc == 0x1002) &&
    nextIs (run 0x0019 { start with sr := 0x600003F1 })
      (fun t => !t.t && !t.q && !t.m && t.pc == 0x1002) &&
    nextIs (run 0x2217 (start.put [(1, 0x3), (2, 0xFFFFFFF9)]))
      (fun t => t.t && t.q && !t.m && t.pc == 0x1002) &&
    nextIs (run 0x3214 ({ start with sr := 0x600003F0 }.put [(1, 0xFFFFFFFD), (2, 0xFFFFFFF9)]))
      (fun t => t.reg 2 == 0xFFFFFFF5 && t.t && t.q && t.m && t.pc == 0x1002) = true := by decide

/-- V45.1, V45.4, V45.5, V45.7, V45.9, V45.12, V45.14, V45.16, V45.17, V45.19, V45.25, V45.26, V45.32, V45.36. -/
theorem test_run_logic_1 :
    nextIs (run 0x2218 (start.put [(1, 0xF0F0F0F), (2, 0xF0F0F0F0)]))
      (fun t => t.t && t.pc == 0x1002) &&
    nextIs (run 0x2219 ({ start with sr := 0x600000F1 }.put [(1, 0xFF00FF0), (2, 0x12345678)]))
      (fun t => t.reg 2 == 0x2300670 && t.pc == 0x1002) &&
    nextIs (run 0x221A (start.put [(1, 0xFFFFFFFF), (2, 0x12345678)]))
      (fun t => t.reg 2 == 0xEDCBA987 && t.pc == 0x1002) &&
    nextIs (run 0x221B (start.put [(1, 0x80000001), (2, 0x12345678)]))
      (fun t => t.reg 2 == 0x92345679 && t.pc == 0x1002) &&
    nextIs (run 0x6227 (start.put [(2, 0xF0F0F0F)]))
      (fun t => t.reg 2 == 0xF0F0F0F0 && t.pc == 0x1002) &&
    nextIs (run 0xC8FF (start.put [(0, 0xFFFFFF00)]))
      (fun t => t.t && t.pc == 0x1002) &&
    nextIs (run 0xC9FF (start.put [(0, 0x12345678)]))
      (fun t => t.reg 0 == 0x78 && t.pc == 0x1002) &&
    nextIs (run 0xCAFF (start.put [(0, 0x12345678)]))
      (fun t => t.reg 0 == 0x12345687 && t.pc == 0x1002) &&
    nextIs (run 0xCB80 (start.put [(0, 0x12345600)]))
      (fun t => t.reg 0 == 0x12345680 && t.pc == 0x1002) &&
    nextIs (run 0x221C (start.put [(1, 0x11223344), (2, 0x55223377)]))
      (fun t => t.t && t.pc == 0x1002) &&
    nextIs (run 0x3210 ({ start with sr := 0x600000F1 }.put [(1, 0x5), (2, 0x6)]))
      (fun t => !t.t && t.pc == 0x1002) &&
    nextIs (run 0x3212 (start.put [(1, 0x7FFFFFFF), (2, 0x80000000)]))
      (fun t => t.t && t.pc == 0x1002) &&
    nextIs (run 0x3213 (start.put [(1, 0x80000000), (2, 0x7FFFFFFF)]))
      (fun t => t.t && t.pc == 0x1002) &&
    nextIs (run 0x3216 (start.put [(1, 0x7FFFFFFF), (2, 0x80000000)]))
      (fun t => t.t && t.pc == 0x1002) = true := by decide

/-- V45.42, V45.48, V45.51, V45.55. -/
theorem test_run_logic_2 :
    nextIs (run 0x3217 (start.put [(1, 0x80000000), (2, 0x7FFFFFFF)]))
      (fun t => t.t && t.pc == 0x1002) &&
    nextIs (run 0x4211 (start.put [(2, 0x7FFFFFFF)]))
      (fun t => t.t && t.pc == 0x1002) &&
    nextIs (run 0x4215 ({ start with sr := 0x600000F1 }.put [(2, 0xFFFFFFFF)]))
      (fun t => !t.t && t.pc == 0x1002) &&
    nextIs (run 0x8880 (start.put [(0, 0xFFFFFF80)]))
      (fun t => t.t && t.pc == 0x1002) = true := by decide

/-- V46.1, V46.6, V46.10, V46.15, V46.19, V46.21, V46.25, V46.30, V46.35, V46.38, V46.42, V46.43, V46.44, V46.47. -/
theorem test_run_arith_1 :
    nextIs (run 0x3218 ({ start with sr := 0x600000F1 }.put [(1, 0x7), (2, 0x5)]))
      (fun t => t.reg 2 == 0xFFFFFFFE && t.pc == 0x1002) &&
    nextIs (run 0x321A ({ start with sr := 0x600000F1 }.put [(1, 0xFFFFFFFF), (2, 0x0)]))
      (fun t => t.reg 2 == 0x0 && t.t && t.pc == 0x1002) &&
    nextIs (run 0x321B (start.put [(1, 0xFFFFFFFF), (2, 0x7FFFFFFF)]))
      (fun t => t.reg 2 == 0x80000000 && t.t && t.pc == 0x1002) &&
    nextIs (run 0x321C ({ start with sr := 0x600000F1 }.put [(1, 0x1), (2, 0x7FFFFFFF)]))
      (fun t => t.reg 2 == 0x80000000 && t.pc == 0x1002) &&
    nextIs (run 0x321E ({ start with sr := 0x600000F1 }.put [(1, 0x1), (2, 0x2)]))
      (fun t => t.reg 2 == 0x4 && !t.t && t.pc == 0x1002) &&
    nextIs (run 0x321F (start.put [(1, 0x1), (2, 0x7FFFFFFF)]))
      (fun t => t.reg 2 == 0x80000000 && t.t && t.pc == 0x1002) &&
    nextIs (run 0x727F (start.put [(2, 0x7FFFFFFF)]))
      (fun t => t.reg 2 == 0x8000007E && t.pc == 0x1002) &&
    nextIs (run 0x621B (start.put [(1, 0x1)]))
      (fun t => t.reg 2 == 0xFFFFFFFF && t.pc == 0x1002) &&
    nextIs (run 0x621A (start.put [(1, 0x1)]))
      (fun t => t.reg 2 == 0xFFFFFFFF && t.t && t.pc == 0x1002) &&
    nextIs (run 0x4210 (start.put [(2, 0x1)]))
      (fun t => t.reg 2 == 0x0 && t.t && t.pc == 0x1002) &&
    nextIs (run 0x621C (start.put [(1, 0x123456FF)]))
      (fun t => t.reg 2 == 0xFF && t.pc == 0x1002) &&
    nextIs (run 0x621D (start.put [(1, 0x1234FFFF)]))
      (fun t => t.reg 2 == 0xFFFF && t.pc == 0x1002) &&
    nextIs (run 0x621E (start.put [(1, 0x12345680)]))
      (fun t => t.reg 2 == 0xFFFFFF80 && t.pc == 0x1002) &&
    nextIs (run 0x621F (start.put [(1, 0xFFFF7FFF)]))
      (fun t => t.reg 2 == 0x7FFF && t.pc == 0x1002) = true := by decide

/-- V46.49, V46.50, V46.52. -/
theorem test_run_arith_2 :
    nextIs (run 0x6218 (start.put [(1, 0x12345678)]))
      (fun t => t.reg 2 == 0x12347856 && t.pc == 0x1002) &&
    nextIs (run 0x6219 (start.put [(1, 0x12345678)]))
      (fun t => t.reg 2 == 0x56781234 && t.pc == 0x1002) &&
    nextIs (run 0x221D (start.put [(1, 0x12345678), (2, 0x9ABCDEF0)]))
      (fun t => t.reg 2 == 0x56789ABC && t.pc == 0x1002) = true := by decide

/-- V47.1, V47.3, V47.5, V47.8, V47.10, V47.12, V47.16, V47.17, V47.20, V47.21, V47.22, V47.23, V47.24, V47.25. -/
theorem test_run_shift_1 :
    nextIs (run 0x4200 (start.put [(2, 0x80000001)]))
      (fun t => t.reg 2 == 0x2 && t.t && t.pc == 0x1002) &&
    nextIs (run 0x4220 (start.put [(2, 0x80000001)]))
      (fun t => t.reg 2 == 0x2 && t.t && t.pc == 0x1002) &&
    nextIs (run 0x4201 (start.put [(2, 0x80000001)]))
      (fun t => t.reg 2 == 0x40000000 && t.t && t.pc == 0x1002) &&
    nextIs (run 0x4221 ({ start with sr := 0x600000F1 }.put [(2, 0x7FFFFFFE)]))
      (fun t => t.reg 2 == 0x3FFFFFFF && !t.t && t.pc == 0x1002) &&
    nextIs (run 0x4204 (start.put [(2, 0x80000001)]))
      (fun t => t.reg 2 == 0x3 && t.t && t.pc == 0x1002) &&
    nextIs (run 0x4205 (start.put [(2, 0x1)]))
      (fun t => t.reg 2 == 0x80000000 && t.t && t.pc == 0x1002) &&
    nextIs (run 0x4224 ({ start with sr := 0x600000F1 }.put [(2, 0x7FFFFFFF)]))
      (fun t => t.reg 2 == 0xFFFFFFFF && !t.t && t.pc == 0x1002) &&
    nextIs (run 0x4225 (start.put [(2, 0x1)]))
      (fun t => t.reg 2 == 0x0 && t.t && t.pc == 0x1002) &&
    nextIs (run 0x4208 ({ start with sr := 0x600000F1 }.put [(2, 0x89ABCDEF)]))
      (fun t => t.reg 2 == 0x26AF37BC && t.pc == 0x1002) &&
    nextIs (run 0x4218 ({ start with sr := 0x600000F1 }.put [(2, 0x89ABCDEF)]))
      (fun t => t.reg 2 == 0xABCDEF00 && t.pc == 0x1002) &&
    nextIs (run 0x4228 ({ start with sr := 0x600000F1 }.put [(2, 0x89ABCDEF)]))
      (fun t => t.reg 2 == 0xCDEF0000 && t.pc == 0x1002) &&
    nextIs (run 0x4209 ({ start with sr := 0x600000F1 }.put [(2, 0x89ABCDEF)]))
      (fun t => t.reg 2 == 0x226AF37B && t.pc == 0x1002) &&
    nextIs (run 0x4219 ({ start with sr := 0x600000F1 }.put [(2, 0x89ABCDEF)]))
      (fun t => t.reg 2 == 0x89ABCD && t.pc == 0x1002) &&
    nextIs (run 0x4229 ({ start with sr := 0x600000F1 }.put [(2, 0x89ABCDEF)]))
      (fun t => t.reg 2 == 0x89AB && t.pc == 0x1002) = true := by decide

/-- V47.26, V47.27, V47.37, V47.52. -/
theorem test_run_shift_2 :
    nextIs (run 0x4234 ({ start with sr := 0x600000F1 }.put [(2, 0x89ABCDEF)]))
      (fun t => t.reg 2 == 0x9ABCDEF0 && t.pc == 0x1002) &&
    nextIs (run 0x4235 ({ start with sr := 0x600000F1 }.put [(2, 0x89ABCDEF)]))
      (fun t => t.reg 2 == 0x89ABCDE && t.pc == 0x1002) &&
    nextIs (run 0x421C ({ start with sr := 0x600000F1 }.put [(1, 0x7FFFFFE4), (2, 0x80000001)]))
      (fun t => t.reg 2 == 0x10 && t.pc == 0x1002) &&
    nextIs (run 0x421D ({ start with sr := 0x600000F1 }.put [(1, 0x7FFFFFE4), (2, 0x80000001)]))
      (fun t => t.reg 2 == 0x10 && t.pc == 0x1002) = true := by decide

/-- V48.1, V48.6, V48.10, V48.13. -/
theorem test_run_trap :
    nextIs (run 0xC321 ({ start with sr := 0x000000F1, vbr := 0x8000 }.put [(15, 0x7F00)]))
      (fun t => t.ssr == 0xF1 && t.spc == 0x1002 && t.sgr == 0x7F00 && t.sr == 0x700000F1 && t.pc == 0x8100) &&
    nextIs (run 0x002B { start with ssr := 0xFFFFFFFF, spc := 0x2000 })
      (fun t => t.sr == 0x700083F3 && t.pc == 0x1002 && t.delayTarget == some 0x2000) &&
    nextIs (run 0x001B start)
      (fun t => t.pc == 0x1002 && t.sleeping) &&
    nextIs (run 0x003B ({ start with sr := 0x000000F0, vbr := 0x8000 }.put [(15, 0x7F00)]))
      (fun t => t.ssr == 0xF0 && t.spc == 0x1002 && t.sgr == 0x7F00 && t.sr == 0x700000F0 && t.pc == 0x8100) = true := by decide

/-- R72: `MOV.L` of 0x11223344 lies as 44 33 22 11 (little) and 11 22 33 44 (big); R74: a long read back by bytes. -/
theorem test_store_byte_order :
    nextIs (exec (.movlStore 1 2) (start.put [(1, 0x11223344), (2, 0x2000)]))
      (fun t => t.byteAt 0x2000 == 0x44 && t.byteAt 0x2003 == 0x11) &&
    nextIs (exec (.movlStore 1 2) ({ start with cfg := { start.cfg with endian := .big } }.put
        [(1, 0x11223344), (2, 0x2000)]))
      (fun t => t.byteAt 0x2000 == 0x11 && t.byteAt 0x2003 == 0x44) = true := by decide

/-- V48.1 with its cause and code (R422, R430). -/
theorem test_trapa_cause :
    nextIs (exec (.trapa 33) ({ user with vbr := 0x8000 }.put [(15, 0x7F00)]))
      (fun t => t.lastCause == some (.trapa 33) && t.lastCode == some 0x160 && t.reg 15 == 0x7F00) = true := by decide

/-- V40.32, V60.25: a misaligned store leaves its base, and in a slot the branch's address is saved (R433, R434). -/
theorem test_address_error :
    nextIs (exec (.stsl 0 15) (start.put [(15, 0x8002)]))
      (fun t => t.lastCause == some (.addressErrorWrite 0x7FFE) && t.spc == 0x1000 && t.reg 15 == 0x8002) &&
    nextIs (exec (.movlStore 1 2) (slot.put [(2, 0x2002)]))
      (fun t => t.lastCause == some (.addressErrorWrite 0x2002) && t.spc == 0x1000 && t.delayTarget == none) = true := by
  decide

/-- V40.13, V60.5, V60.21: privilege, an unimplemented row, an undefined word in a slot (R423, R424). -/
theorem test_illegal :
    nextIs (run 0x0102 user) (fun t => t.lastCause == some (.illegalInstruction 0x0102) && t.spc == 0x1000) &&
    nextIs (run 0x0038 start) (fun t => t.lastCause == some (.illegalInstruction 0x0038)) &&
    nextIs (run 0xFFFF slot) (fun t => t.lastCause == some (.slotIllegalInstruction 0xFFFF) && t.spc == 0x1000) = true := by
  decide

/-- V48.3: an exception while SR.BL = 1 stops (R435). -/
theorem test_blocked : exec (.trapa 33) { start with sr := 0x700000F0 } = .fault (.exceptionWhileBlocked (.trapa 33)) :=
  rfl

/-- V61.1, V61.2, V61.6, V61.8: accepted above SR.IM, not at it, not in a slot; accepted asleep (R441). -/
theorem test_interrupt :
    nextIs (step { user with sr := 0x40, vbr := 0x8000, irqs := [some 5] })
      (fun t => t.pc == 0x8600 && t.spc == 0x1000 && t.ssr == 0x40 && t.sr == 0x70000040) &&
    nextIs (step ({ user with sr := 0x40, irqs := [some 4] }.poke .word 0x1000 0x0009)) (fun t => t.pc == 0x1002) &&
    nextIs (step ({ slot with sr := 0x40000000, irqs := [some 15] }.poke .word 0x1002 0x0009)) (fun t => t.pc == 0x3000) &&
    nextIs (step { start with sr := 0x40000000, sleeping := true, vbr := 0x8000, irqs := [some 7] })
      (fun t => t.pc == 0x8600 && !t.sleeping) = true := by decide

/-- R412, R441: asleep with SR.IM = 4, a request of level 4 leaves the core asleep while one of level 5 is to come, and
nothing can end the sleep when none is; SR.IM = 15 and SR.BL = 1 make it stuck whatever is to come. -/
theorem test_sleep :
    nextIs (step { start with sr := 0x60000040, sleeping := true, irqs := [some 4, none, some 5] })
      (fun t => t.sleeping && t.pc == 0x1000 && t.irqs == [none, some 5]) = true ∧
    step { start with sr := 0x60000040, sleeping := true, irqs := [some 4] } = .fault .endlessSleep ∧
    step { start with sleeping := true, irqs := [none, some 15] } = .fault .endlessSleep ∧
    step { start with sr := 0x70000000, sleeping := true, irqs := [some 15] } = .fault .endlessSleep :=
  ⟨by decide, rfl, rfl, rfl⟩

/-- R15: a run to the address after a `NOP`, and one that ends in the sleep after a `SLEEP`. -/
theorem test_run_ends :
    (match runTo 0x1002 1 (start.poke .word 0x1000 0x0009) with
      | .ended t => t.pc == 0x1002
      | _ => false) = true ∧
    (match runTo 0x9000 1 (start.poke .word 0x1000 0x001B) with
      | .ended t => t.asleepForGood && t.pc == 0x1002
      | _ => false) = true := by decide

/-- R86: a stored word is refused at the fetch until `ICBI` of its address. -/
theorem test_stale_fetch :
    step ({ start with icacheStale := [0x1000] }.poke .word 0x1000 0x0009) = .refused (.staleFetch 0x1000) ∧
    nextIs (exec (.icbi 1) ({ start with icacheStale := [0x1000, 0x1002] }.put [(1, 0x1001)]))
      (fun t => t.icacheStale == [0x1002]) = true := ⟨rfl, by decide⟩

/-- Sixteen bytes of a device at 0x2000, which is asked for two values; memory elsewhere. -/
def dev : State :=
  { start with
    cfg := { start.cfg with memMap := { base := 0x2000, size := 16, kind := .device } :: start.cfg.memMap }
    deviceInput := [0x123489AB, 0x0018] }

/-- R79: outside the map, and at a long of which one byte is a device's, an access has no step. -/
theorem test_map :
    exec (.movbLoad 1 2) { start with cfg := { start.cfg with memMap := [] } } = .refused (.unmappedAccess 0) ∧
    exec (.movlLoad 1 2) { start with
        cfg := { start.cfg with memMap := { base := 3, size := 1, kind := .device } :: start.cfg.memMap } } =
      .refused (.straddlingAccess 0) := ⟨rfl, rfl⟩

/-- R77, R79, R83: a device's word is sign-extended, and its read is recorded; a fetch takes the next value (the word
of `SETT`) and is recorded too. -/
theorem test_device_read :
    nextIs (exec (.movwLoad 1 2) (dev.put [(1, 0x2002)])) (fun t => t.reg 2 == 0xFFFF89AB && t.pc == 0x1002 &&
      t.deviceInput == [0x0018] && t.deviceLog == [.read 2 0x2002 0x89AB]) &&
    nextIs (step { dev with pc := 0x2004, deviceInput := [0x0018] }) (fun t => t.t && t.pc == 0x2006 &&
      t.deviceInput == [] && t.deviceLog == [.read 2 0x2004 0x0018]) = true := by decide

/-- R77, R79, R83: a store reaches the device and no memory; a `CAS.L` that finds its value reads once, then writes
once. -/
theorem test_device_write :
    nextIs (exec (.movbStore 1 2) (dev.put [(1, 0x1234), (2, 0x2001)])) (fun t => t.mem == [] &&
      t.deviceInput == dev.deviceInput && t.deviceLog == [.write 1 0x2001 0x34]) &&
    nextIs (exec (.casl 1 2) (dev.put [(0, 0x2000), (1, 0x123489AB), (2, 9)])) (fun t => t.t && t.reg 2 == 0x123489AB &&
      t.deviceInput == [0x0018] && t.deviceLog == [.write 4 0x2000 9, .read 4 0x2000 0x123489AB]) = true := by decide

/-- A table word placed after reset is the first instruction run. -/
theorem test_placed_word : nextIs (step (State.reset.withFetchWord 16 0xE37F)) (fun t => t.reg 3 == 0x7F) = true := by
  decide

/-! Witnesses: for each statement with hypotheses, a state and operands that meet them together; where clauses differ,
one for each, at the ends of its range. -/

theorem witness_next {r : Result} {p : State → Bool} (h : nextIs r p = true) : ∃ t, r = .next t ∧ p t = true := by
  cases r
  · exact ⟨_, rfl, h⟩
  · exact absurd h (by simp [nextIs])
  · exact absurd h (by simp [nextIs])

/-- A word at pc. -/
def code (s : State) (w : DWord) : State := s.poke .word s.pc w

/-- Supervisor mode with Bank B mapped and every interrupt level open. -/
def open0 : State := { start with sr := 0x60000000 }

/-- Exceptions blocked. -/
def blocked : State := { start with sr := 0x700000F0 }

/-- Memory up to 0x2002, a device at 0x2003, nothing above. -/
def holed : State :=
  { start with cfg := { start.cfg with
      memMap := [{ base := 0, size := 0x2003, kind := .memory }, { base := 0x2003, size := 1, kind := .device }] } }

theorem no_request {s : State} (h : s.irqs = []) : ∀ l, s.irqs.head? = some (some l) → ¬Accepts s l := by
  intro l hl; rw [h] at hl; simp at hl

/-- The word a fetch reads, by the sum of R72 or from the device. -/
theorem word_at (s : State) (w : Word) (h : (s.loadValue .word s.pc).toNat = w.toNat) : w.toNat = valueAt s 2 s.pc :=
  h.symm.trans (valueAt_eq s .word s.pc).symm

theorem witness_EncodeInvertsDecode : decode 0x0F09 = .ok (.nop 15) := by decide

/-- The first and the last nibble that is not 0, with the first and the last row of each list. -/
theorem witness_ReservedWordsHoldNoInstruction :
    (1 : BitVec 4) ≠ 0 ∧ (15 : BitVec 4) ≠ 0 ∧
    (∀ low ∈ ([0x61, 0xEB] : List (BitVec 8)), low ∈ ([0x61, 0x71, 0xA1, 0xB1, 0x14, 0x44, 0x54, 0xA5, 0xB5, 0x38, 0x48,
      0x58, 0x68, 0x78, 0x39, 0xA9, 0xE9, 0x1B, 0x8B, 0x9B, 0xAB, 0xCB, 0xDB, 0xEB] : List (BitVec 8))) ∧
    (∀ high ∈ ([0x83, 0xCF] : List (BitVec 8)),
      high ∈ ([0x83, 0x86, 0x87, 0x8A, 0x8C, 0x8E, 0xCC, 0xCD, 0xCE, 0xCF] : List (BitVec 8))) ∧
    (∀ low ∈ ([0x08, 0x6B] : List (BitVec 8)), low ∈ ([0x08, 0x18, 0x28, 0x38, 0x48, 0x58, 0x68, 0x19, 0x0B, 0x1B, 0x2B,
      0x3B, 0x6B] : List (BitVec 8))) ∧
    ∀ low ∈ ([0x30, 0xBB] : List (BitVec 8)), low ∈ ([0x30, 0x80, 0x49, 0x3B, 0xBB] : List (BitVec 8)) := by decide

/-- From memory, and from a device. -/
theorem witness_StepRunsDecodedInstruction :
    (Fetches (code start 0x321C) 0x321C ∧ decode 0x321C = .ok (.add 1 2)) ∧
    Fetches { dev with pc := 0x200E } 0x89AB ∧ decode 0x89AB = .ok (.bt 0xAB) :=
  ⟨⟨⟨no_request rfl, rfl, ⟨by decide, .memory, by decide⟩, by decide, word_at _ _ (by decide)⟩, by decide⟩,
    ⟨no_request rfl, rfl, ⟨by decide, .device, by decide⟩, by decide, word_at _ _ (by decide)⟩, by decide⟩

theorem witness_PlacedWordIsTheNextInstruction : decode (BitVec.ofNat 16 (0x321C % 2 ^ 16)) = .ok (.add 1 2) := by decide

/-- At the highest even address; and an odd pc. -/
theorem witness_FetchRaisesIllegalOrAddressError :
    (Fetches (code { start with pc := 0xFFFFFFFE } 0xFFFF) 0xFFFF ∧ decode 0xFFFF = .error .fpuBlock ∧
      (code { start with pc := 0xFFFFFFFE } 0xFFFF).sr.getLsbD 28 = false) ∧
    (∀ l, { start with pc := 0x1001 }.irqs.head? = some (some l) → ¬Accepts { start with pc := 0x1001 } l) ∧
    { start with pc := 0x1001 }.sleeping = false ∧ { start with pc := 0x1001 }.pc.getLsbD 0 = true ∧
    { start with pc := 0x1001 }.sr.getLsbD 28 = false :=
  ⟨⟨⟨no_request rfl, rfl, ⟨by decide, .memory, by decide⟩, by decide, word_at _ _ (by decide)⟩, by decide, by decide⟩,
    no_request rfl, rfl, by decide, by decide⟩

/-- Just above SR.IM, awake and asleep. -/
theorem witness_InterruptIsAccepted :
    ({ start with sr := 0x600000E0, irqs := [some 15] }.irqs.head? = some (some 15) ∧
      Accepts { start with sr := 0x600000E0, irqs := [some 15] } 15) ∧
    { user with sr := 0, sleeping := true, irqs := [some 1] }.irqs.head? = some (some 1) ∧
    Accepts { user with sr := 0, sleeping := true, irqs := [some 1] } 1 := by
  refine ⟨⟨rfl, ?_⟩, rfl, ?_⟩ <;> unfold Accepts <;> decide

/-- At SR.IM; blocked; in a slot. -/
theorem witness_HeldOffInterruptHasNoEffect :
    ({ start with irqs := [some 15] }.irqs = some 15 :: [] ∧ ¬Accepts { start with irqs := [some 15] } 15) ∧
    ({ open0 with sr := 0x50000000, irqs := [some 15] }.irqs = some 15 :: [] ∧
      ¬Accepts { open0 with sr := 0x50000000, irqs := [some 15] } 15) ∧
    { slot with sr := 0x40000000, irqs := [some 1] }.irqs = some 1 :: [] ∧
    ¬Accepts { slot with sr := 0x40000000, irqs := [some 1] } 1 := by
  refine ⟨⟨rfl, ?_⟩, ⟨rfl, ?_⟩, rfl, ?_⟩ <;> unfold Accepts <;> decide

/-- A request to come that is just above SR.IM; the three sleeps that cannot end; a request to come at SR.IM. -/
theorem witness_SleepingCoreIdlesOrIsStuck :
    (∀ s ∈ ({ start with sr := 0x60000040, sleeping := true, irqs := [none, some 5] } ::
          { start with sr := 0x60000040, sleeping := true, irqs := [none, some 4] } ::
          { open0 with sr := 0x70000000, sleeping := true, irqs := [none, some 15] } ::
          { start with sleeping := true, irqs := [none, some 15] } :: { open0 with sleeping := true } :: []),
      s.sleeping = true ∧ ∀ l, s.irqs.head? = some (some l) → ¬Accepts s l) ∧
    WillWake { start with sr := 0x60000040, sleeping := true, irqs := [none, some 5] } ∧
    ¬WillWake { start with sr := 0x60000040, sleeping := true, irqs := [none, some 4] } ∧
    { open0 with sr := 0x70000000, sleeping := true, irqs := [none, some 15] }.sr.getLsbD 28 = true ∧
    { start with sleeping := true, irqs := [none, some 15] }.sr.toNat / 16 % 16 = 15 ∧
    { open0 with sleeping := true }.irqs = [] := by
  refine ⟨?_, ⟨5, by decide, by unfold Accepts; decide⟩, ?_, by decide, by decide, rfl⟩
  · simp; exact no_request rfl
  · rintro ⟨l, hl, h⟩
    have e : l = 4 := by simpa using hl
    rw [e] at h
    exact absurd h (by unfold Accepts; decide)

theorem witness_InvariantHoldsAtReset : Config.suggested.wf = true ∧
    { Config.suggested with icacheLine := 32, resetSr := 0x700083F3, vecInterrupt := 0xFFFFFFFE }.wf = true := by decide

/-- A stale unit, an odd pc out of a slot, every named SR bit. -/
theorem witness_StepKeepsInvariant :
    (code { start with sr := 0x600083F3, icacheStale := [0, 0xFFFFFFFE] } 0x0009).Inv ∧
    nextIs (step (code { start with sr := 0x600083F3, icacheStale := [0, 0xFFFFFFFE] } 0x0009)) (fun _ => true) = true :=
  ⟨⟨by decide, by decide, fun _ => by decide, by decide, by decide⟩, by decide⟩

theorem witness_ParametersNeverChange : nextIs (step (code start 0x0009)) (fun _ => true) = true := by decide

/-- A step that makes three accesses, a `CAS.L` fetched from the device that it then reads and writes; one whose word is
no instruction; and one of each kind that makes none. -/
theorem witness_DeviceAccessesAreExactlyTheProgramsOwn :
    (nextIs (step ({ dev with pc := 0x2000, deviceInput := [0x2213, 7] }.put [(0, 0x200C), (1, 7)]))
        (fun t => t.deviceLog == [.write 4 0x200C 0, .read 4 0x200C 7, .read 2 0x2000 0x2213]) = true ∧
      wordAt { dev with pc := 0x2000, deviceInput := [0x2213, 7] } = 0x2213 ∧
      decode 0x2213 = .ok (.casl 1 2)) ∧
    (nextIs (step { dev with pc := 0x200E, deviceInput := [0xFFFF] }) (fun t => t.deviceLog == [.read 2 0x200E 0xFFFF]) =
        true ∧ wordAt { dev with pc := 0x200E, deviceInput := [0xFFFF] } = 0xFFFF ∧ decode 0xFFFF = .error .fpuBlock) ∧
    nextIs (step { dev with pc := 0x2000, sr := 0x60000000, irqs := [some 1] }) (fun t => t.deviceLog == []) = true ∧
    nextIs (step { dev with pc := 0x2000, sr := 0x60000000, sleeping := true, irqs := [none, some 1] })
      (fun t => t.deviceLog == []) = true ∧
    nextIs (step { dev with pc := 0x2001 }) (fun t => t.deviceLog == []) = true := by decide

theorem witness_UserModeChangesNoPrivilegedState :
    (code user 0x0018).cfg.privCheck = true ∧ (code user 0x0018).sr.getLsbD 30 = false ∧
    nextIs (step (code user 0x0018)) (fun t => !t.sr.getLsbD 30) = true ∧ (code user 0x0018).bankBMapped = false := by
  decide

/-- By each kind: an interrupt, the two traps, an undefined word out of a slot and in one, a misaligned load and store,
an odd pc. -/
theorem witness_SupervisorModeIsEnteredOnlyByTrap :
    user.cfg.privCheck = true ∧ user.sr.getLsbD 30 = false ∧
    nextIs (step { user with sr := 0, irqs := [some 1] })
      (fun t => t.lastCause == some (.interrupt 1) && t.sr.getLsbD 30) = true ∧
    nextIs (step (code user 0xC3FF)) (fun t => t.lastCause == some (.trapa 255) && t.sr.getLsbD 30) = true ∧
    nextIs (step (code user 0x003B)) (fun t => t.lastCause == some .breakpoint && t.sr.getLsbD 30) = true ∧
    nextIs (step (code user 0xFFFF)) (fun t => t.lastCause == some (.illegalInstruction 0xFFFF) && t.sr.getLsbD 30) =
      true ∧
    nextIs (step (code { slot with sr := 0 } 0xA000))
      (fun t => t.lastCause == some (.slotIllegalInstruction 0xA000) && t.sr.getLsbD 30) = true ∧
    nextIs (step (code (user.put [(1, 2)]) 0x6212))
      (fun t => t.lastCause == some (.addressErrorRead 2) && t.sr.getLsbD 30) = true ∧
    nextIs (step (code ({ slot with sr := 0 }.put [(1, 2)]) 0x2122))
      (fun t => t.lastCause == some (.addressErrorWrite 2) && t.spc == 0x1000 && t.sr.getLsbD 30) = true ∧
    nextIs (step { user with pc := 0x1001 })
      (fun t => t.lastCause == some (.addressErrorRead 0x1001) && t.sr.getLsbD 30) = true := by decide

/-- Both outcomes. -/
theorem witness_DelaySlotCompletesTheBranch :
    (slot.delayTarget = some 0x3000 ∧ slot.sleeping = false ∧ slot.pc.getLsbD 0 = false) ∧
    nextIs (step (code slot 0x0009)) (fun t => t.pc == 0x3000) = true ∧
    nextIs (step (code slot 0xFFFF)) (fun t => t.spc == 0x1000) = true := by decide

/-- A step that stops in each of the two cases; then the traps, each ground of the illegal kinds, a read and a write that are misaligned, an
undefined word, an odd pc. -/
theorem witness_StopsOnlyWhileBlockedOrAsleepForGood :
    step (code blocked 0xC300) = .fault (.exceptionWhileBlocked (.trapa 0)) ∧
    step { open0 with sleeping := true } = .fault .endlessSleep ∧
    (blocked.sr.getLsbD 28 = true ∧ blocked.delayTarget = none) ∧
    (slotForbidden (.bra 0) = true ∧ { blocked with delayTarget := some 0 }.delayTarget.isSome = true) ∧
    (privileged .rte = true ∧ blocked.cfg.privCheck = true ∧ { blocked with sr := 0x10000000 }.sr.getLsbD 28 = true ∧
      { blocked with sr := 0x10000000 }.sr.getLsbD 30 = false) ∧
    reservedIndex blocked (.sts 4 1) = true ∧ reservedIndex blocked (.ldsl 1 14) = true ∧ unimplemented .ldtlb = true ∧
    (access (blocked.put [(1, 0xFFFFFFFF)]) (.movwLoad 1 2) = some (false, 2, 0xFFFFFFFF) ∧
      legalHere (blocked.put [(1, 0xFFFFFFFF)]) (.movwLoad 1 2) = true ∧ (0xFFFFFFFF#32).toNat % 2 ≠ 0 ∧
      access (blocked.put [(1, 5)]) (.movlStoreDec 2 1) = some (true, 4, 1) ∧
      legalHere (blocked.put [(1, 5)]) (.movlStoreDec 2 1) = true ∧ (1#32).toNat % 4 ≠ 0) ∧
    (Fetches (code blocked 0x0000) 0x0000 ∧ decode 0x0000 = .error .reserved32) ∧
    { blocked with pc := 0x1001 }.sleeping = false ∧ { blocked with pc := 0x1001 }.pc.getLsbD 0 = true :=
  ⟨rfl, rfl, by decide, by decide, by decide, by decide, by decide, by decide, by decide,
    ⟨⟨no_request rfl, rfl, ⟨by decide, .memory, by decide⟩, by decide, word_at _ _ (by decide)⟩, by decide⟩, by decide⟩

/-- Each of the three, and the second clause. -/
theorem witness_RefusalsHaveThreeReasons :
    (step { start with icacheStale := [0x1000] } = .refused (.staleFetch 0x1000) ∧
      step { holed with pc := 0x2004 } = .refused (.unmappedAccess 0x2004) ∧
      step { holed with pc := 0x2002 } = .refused (.straddlingAccess 0x2002)) ∧
    (∀ l, { start with icacheStale := [0x1000] }.irqs.head? = some (some l) →
      ¬Accepts { start with icacheStale := [0x1000] } l) ∧
    { start with icacheStale := [0x1000] }.sleeping = false ∧ Answered { start with icacheStale := [0x1000] } 2 0x1000 ∧
    (0x1000#32).toNat ∈ [0x1000] ∧ Answered { dev with icacheStale := [0x2000] } 2 0x2000 ∧ (0x2000#32).toNat ∈ [0x2000] :=
  ⟨⟨rfl, rfl, rfl⟩, no_request rfl, rfl, ⟨by decide, .memory, by decide⟩, by decide, ⟨by decide, .device, by decide⟩,
    by decide⟩

theorem witness_TrapaAndBrkEnterTheHandler :
    (start.delayTarget = none ∧ start.sr.getLsbD 28 = false) ∧ user.delayTarget = none ∧ user.sr.getLsbD 28 = false := by
  decide

/-- Supervisor mode; user mode without the check. -/
theorem witness_RteReturnsAndSleepSleeps :
    (start.delayTarget = none ∧ priv start = true) ∧
    priv { user with cfg := { user.cfg with privCheck := false } } = true := by decide

theorem witness_ReturnUndoesTrapEntry :
    user.delayTarget = none ∧ user.sr &&& user.cfg.srWriteMask = user.sr ∧
    nextIs (exec (.trapa 255) user) (fun _ => true) = true := by decide

theorem witness_ForbiddenInSlotRaisesSlotIllegal :
    slotForbidden (.bra 0) = true ∧ slotForbidden (.ldc 1 0) = true ∧ slotForbidden (.stc 7 1) = true ∧
    slotForbidden .ldtlb = true ∧ slot.delayTarget.isSome = true ∧ slot.sr.getLsbD 28 = false := by decide

theorem witness_PrivilegeAndIndexChecksRaiseIllegal :
    (privileged .rte = true ∧ privileged (.stc 15 1) = true ∧ privileged (.lds 1 3) = true ∧
      user.cfg.privCheck = true ∧ user.sr.getLsbD 30 = false ∧ user.sr.getLsbD 28 = false) ∧
    reservedIndex start (.stc 5 1) = true ∧ reservedIndex start (.ldc 1 7) = true ∧
    reservedIndex start (.sts 7 1) = true ∧ reservedIndex start (.ldsl 1 14) = true ∧
    reservedIndex start (.lds 1 6) = true ∧ start.sr.getLsbD 28 = false := by decide

theorem witness_UnimplementedRowsRaiseIllegal : start.sr.getLsbD 28 = false ∧ slot.sr.getLsbD 28 = false := by decide

/-- A word load at the top, a long store whose base wraps, a `STC.L`. -/
theorem witness_MisalignedAccessRaisesAddressError :
    (access (start.put [(1, 0xFFFFFFFF)]) (.movwLoad 1 2) = some (false, 2, 0xFFFFFFFF) ∧
      legalHere (start.put [(1, 0xFFFFFFFF)]) (.movwLoad 1 2) = true ∧ (0xFFFFFFFF#32).toNat % 2 ≠ 0) ∧
    (access (start.put [(1, 3)]) (.movlStoreDec 2 1) = some (true, 4, 0xFFFFFFFF) ∧
      legalHere (start.put [(1, 3)]) (.movlStoreDec 2 1) = true ∧ (0xFFFFFFFF#32).toNat % 4 ≠ 0) ∧
    access (start.put [(1, 0x2006)]) (.stcl 0 1) = some (true, 4, 0x2002) ∧
    legalHere (start.put [(1, 0x2006)]) (.stcl 0 1) = true ∧ (0x2002#32).toNat % 4 ≠ 0 ∧
    (start.put [(1, 0x2006)]).sr.getLsbD 28 = false := by decide

/-- No region: the first byte, and a byte behind memory and a device. A shared access: its last byte, its second. -/
theorem witness_AccessOutsideMemoryIsRefused :
    (access (holed.put [(1, 0x2004)]) (.movbLoad 1 2) = some (false, 1, 0x2004) ∧
      legalHere (holed.put [(1, 0x2004)]) (.movbLoad 1 2) = true ∧
      (∀ j, j < 0 → (holed.put [(1, 0x2004)]).cfg.kindAt (0x2004 + j) ≠ none) ∧
      (holed.put [(1, 0x2004)]).cfg.kindAt (0x2004 + 0) = none) ∧
    (access (holed.put [(1, 0x2004)]) (.movlStoreDec 2 1) = some (true, 4, 0x2000) ∧
      legalHere (holed.put [(1, 0x2004)]) (.movlStoreDec 2 1) = true ∧ (0x2000#32).toNat % 4 = 0 ∧
      (∀ j, j < 4 → (holed.put [(1, 0x2004)]).cfg.kindAt (0x2000 + j) ≠ none) ∧
      (holed.put [(1, 0x2004)]).cfg.kindAt (0x2000 + 3) ≠ (holed.put [(1, 0x2004)]).cfg.kindAt 0x2000) ∧
    access (holed.put [(1, 0x2002)]) (.movwLoad 1 2) = some (false, 2, 0x2002) ∧
    legalHere (holed.put [(1, 0x2002)]) (.movwLoad 1 2) = true ∧ (0x2002#32).toNat % 2 = 0 ∧
    (∀ j, j < 2 → (holed.put [(1, 0x2002)]).cfg.kindAt (0x2002 + j) ≠ none) ∧
    (holed.put [(1, 0x2002)]).cfg.kindAt (0x2002 + 1) ≠ (holed.put [(1, 0x2002)]).cfg.kindAt 0x2002 := by decide

/-- Each row of the two tables that has a value. -/
theorem witness_StcAndStsCopyToRegister :
    crRead start 0 = some start.sr ∧ crRead user 1 = some user.gbr ∧ crRead start 2 = some start.vbr ∧
    crRead start 3 = some start.ssr ∧ crRead start 4 = some start.spc ∧ crRead user 7 = some 0x1004 ∧
    crRead start 8 = some (start.readPhys (.bankB 0)) ∧ crRead start 15 = some (start.readPhys (.bankB 7)) ∧
    sysOf user 0 = some .mach ∧ sysOf user 1 = some .macl ∧ sysOf user 2 = some .pr ∧ sysOf start 3 = some .sgr ∧
    sysOf start 15 = some .dbr ∧
    sysOf { start with cfg := { start.cfg with hasFpuRegs := true } } 5 = some .fpul ∧
    sysOf { start with cfg := { start.cfg with hasFpuRegs := true } } 6 = some .fpscr := by decide

/-- At the top of the address space, which x[n] = 0 reaches by wrapping, and at 0. -/
theorem answered_ends :
    Answered start 4 (start.reg 1 - 4) ∧ Answered (start.put [(1, 4)]) 4 ((start.put [(1, 4)]).reg 1 - 4) :=
  ⟨⟨by decide, .memory, by decide⟩, by decide, .memory, by decide⟩

/-- By a device: its last byte, its last word, its last long. -/
theorem answered_dev :
    Answered (dev.put [(1, 0x200F)]) 1 ((dev.put [(1, 0x200F)]).reg 1) ∧
    Answered (dev.put [(1, 0x200E)]) 2 ((dev.put [(1, 0x200E)]).reg 1) ∧
    Answered (dev.put [(1, 0x200C)]) 4 ((dev.put [(1, 0x200C)]).reg 1) ∧
    Answered (dev.put [(1, 0x2010)]) 4 ((dev.put [(1, 0x2010)]).reg 1 - 4) :=
  ⟨⟨by decide, .device, by decide⟩, ⟨by decide, .device, by decide⟩, ⟨by decide, .device, by decide⟩, by decide, .device,
    by decide⟩

theorem witness_StcLongAndStsLongPush :
    Answered start 4 (start.reg 1 - 4) ∧ crRead start 0 = some start.sr ∧ sysOf start 15 = some .dbr :=
  ⟨answered_ends.1, by decide, by decide⟩

/-- Each kind of destination. -/
theorem witness_LdcAndLdsCopyFromRegister :
    crDest start 0 = some .sr ∧ crDest user 1 = some (.special .gbr) ∧ crDest start 4 = some (.special .spc) ∧
    crDest start 8 = some (.reg (.bankB 0)) ∧ crDest start 15 = some (.reg (.bankB 7)) ∧
    crDest { start with cfg := { start.cfg with crBankView := .inactive } } 8 = some (.reg (.bankA 0)) ∧
    sysOf start 3 = some .sgr := by decide

/-- SR, and the register that addresses the load. -/
theorem witness_LdcLongAndLdsLongPop :
    Answered (start.put [(1, 0xFFFFFFFC)]) 4 ((start.put [(1, 0xFFFFFFFC)]).reg 1) ∧
    crDest (start.put [(1, 0xFFFFFFFC)]) 0 = some .sr ∧
    crDest (start.put [(1, 0xFFFFFFFC)]) 9 = some (.reg ((start.put [(1, 0xFFFFFFFC)]).physOf 1)) ∧
    sysOf start 0 = some .mach := ⟨⟨by decide, .memory, by decide⟩, by decide, by decide, by decide⟩

theorem witness_DelayedBranchesAndCalls : start.delayTarget = none := by decide

/-- Both readings of `BRA/N`, and T either way. -/
theorem witness_ShortAndConditionalBranches :
    start.delayTarget = none ∧ start.cfg.branDisp8 = .zeroExtended ∧ srT start = false ∧
    { start with cfg := { start.cfg with branDisp8 := .signExtended } }.cfg.branDisp8 = .signExtended ∧
    { start with sr := 0x60000001 }.delayTarget = none ∧ srT { start with sr := 0x60000001 } = true := by decide

theorem witness_PrefetchAndInvalidate : start.cfg.icacheLine = 2 ^ 1 ∧
    { start with cfg := { start.cfg with icacheLine := 32 } }.cfg.icacheLine = 2 ^ 5 := by decide

/-- Equal, and not equal, in memory; equal at a device. -/
theorem witness_CompareAndExchange :
    (Answered (start.put [(1, 9)] |>.poke .long 0 9) 4 ((start.put [(1, 9)] |>.poke .long 0 9).reg 0) ∧
      loaded (start.put [(1, 9)] |>.poke .long 0 9) 4 ((start.put [(1, 9)] |>.poke .long 0 9).reg 0) =
        (start.put [(1, 9)] |>.poke .long 0 9).reg 1) ∧
    (Answered (start.poke .long 0 9) 4 ((start.poke .long 0 9).reg 0) ∧
      loaded (start.poke .long 0 9) 4 ((start.poke .long 0 9).reg 0) ≠ (start.poke .long 0 9).reg 1) ∧
    Answered (dev.put [(0, 0x2000), (1, 0x123489AB)]) 4 ((dev.put [(0, 0x2000), (1, 0x123489AB)]).reg 0) ∧
    loaded (dev.put [(0, 0x2000), (1, 0x123489AB)]) 4 ((dev.put [(0, 0x2000), (1, 0x123489AB)]).reg 0) =
      (dev.put [(0, 0x2000), (1, 0x123489AB)]).reg 1 := by
  refine ⟨⟨⟨by decide, .memory, by decide⟩, ?_⟩, ⟨⟨by decide, .memory, by decide⟩, ?_⟩, ⟨by decide, .device, by decide⟩, ?_⟩
  · exact (loaded_eq _ .long _).trans (by decide)
  · exact fun h => absurd ((loaded_eq _ .long _).symm.trans h) (by decide)
  · exact (loaded_eq _ .long _).trans (by decide)

/-- Each size at the last address it may have. -/
theorem witness_LoadsWithoutUpdate :
    (Answered (start.put [(1, 0xFFFFFFFF)]) 1 ((start.put [(1, 0xFFFFFFFF)]).reg 1) ∧
      Answered (start.put [(1, 0xFFFFFFFE)]) 2 ((start.put [(1, 0xFFFFFFFE)]).reg 1) ∧
      Answered (start.put [(1, 0xFFFFFFFC)]) 4 ((start.put [(1, 0xFFFFFFFC)]).reg 1)) ∧
    Answered start 1 (start.reg 0 + start.reg 1) ∧ Answered start 2 (start.reg 1 + BitVec.ofNat 32 (2 * (15#4).toNat)) ∧
    Answered start 4 (start.gbr + BitVec.ofNat 32 (4 * (255#8).toNat)) :=
  ⟨⟨⟨by decide, .memory, by decide⟩, ⟨by decide, .memory, by decide⟩, by decide, .memory, by decide⟩,
    ⟨by decide, .memory, by decide⟩, ⟨by decide, .memory, by decide⟩, by decide, .memory, by decide⟩

/-- A device that is stored to. -/
theorem witness_StoresWithoutUpdate :
    (Answered start 1 (start.reg 0 + start.reg 1) ∧ Answered start 2 (start.reg 1 + BitVec.ofNat 32 (2 * (15#4).toNat)) ∧
      Answered start 4 (start.gbr + BitVec.ofNat 32 (4 * (255#8).toNat))) ∧
    Answered (dev.put [(1, 0x200F)]) 1 ((dev.put [(1, 0x200F)]).reg 1) ∧
    Answered (dev.put [(1, 0x200C)]) 4 ((dev.put [(1, 0x200C)]).reg 1) :=
  ⟨witness_LoadsWithoutUpdate.2, answered_dev.1, answered_dev.2.2.1⟩

theorem witness_PcRelativeLoadsAndAddresses :
    start.delayTarget = none ∧
    (Answered start 1 (start.pc + 4 + start.reg 0) ∧ Answered start 2 (start.pc + 4 + start.reg 0) ∧
      Answered start 4 (start.pc + 4 + start.reg 0)) ∧
    Answered start 2 (start.pc + 4 + BitVec.ofNat 32 (2 * (255#8).toNat)) ∧
    Answered { start with pc := 0x1002 } 4
      (BitVec.ofNat 32 (({ start with pc := 0x1002 }.pc + 4).toNat / 4 * 4 + 4 * (255#8).toNat)) :=
  ⟨rfl, ⟨⟨by decide, .memory, by decide⟩, ⟨by decide, .memory, by decide⟩, by decide, .memory, by decide⟩,
    ⟨by decide, .memory, by decide⟩, by decide, .memory, by decide⟩

theorem witness_PcRelativeStores :
    start.delayTarget = none ∧ Answered start 1 (start.pc + 4 + start.reg 0) ∧
    Answered start 2 (start.pc + 4 + start.reg 0) ∧ Answered start 4 (start.pc + 4 + start.reg 0) :=
  ⟨rfl, witness_PcRelativeLoadsAndAddresses.2.1⟩

/-- x[n] = 0, whose decrement wraps; and a device. -/
theorem witness_AutoModifyLoadsAndStores :
    (Answered start 1 (start.reg 1) ∧ Answered start 2 (start.reg 1) ∧ Answered start 4 (start.reg 1) ∧
      Answered start 1 (start.reg 1 - 1) ∧ Answered start 2 (start.reg 1 - 2) ∧ Answered start 4 (start.reg 1 - 4)) ∧
    Answered (dev.put [(1, 0x200E)]) 2 ((dev.put [(1, 0x200E)]).reg 1) ∧
    Answered (dev.put [(1, 0x2010)]) 4 ((dev.put [(1, 0x2010)]).reg 1 - 4) :=
  ⟨⟨⟨by decide, .memory, by decide⟩, ⟨by decide, .memory, by decide⟩, ⟨by decide, .memory, by decide⟩,
    ⟨by decide, .memory, by decide⟩, ⟨by decide, .memory, by decide⟩, answered_ends.1⟩, answered_dev.2.1,
    answered_dev.2.2.2⟩

/-- At the top of memory; the clause on Rn with another destination. -/
theorem witness_PopLoadsWhatPushStored :
    Answered start 4 (start.reg 1 - 4) ∧ ¬OnDevice start (start.reg 1 - 4) ∧ (3 : Reg) ≠ 1 :=
  ⟨answered_ends.1, by unfold OnDevice; decide, by decide⟩

/-- Q equal to M, and not. -/
theorem witness_DivideStepInstructions :
    start.sr.getLsbD 8 = start.sr.getLsbD 9 ∧
    { start with sr := 0x60000100 }.sr.getLsbD 8 ≠ { start with sr := 0x60000100 }.sr.getLsbD 9 := by decide

/-- The partial remainder at both ends of its range, for the divisor 5: 4, and -5. -/
theorem witness_DivideStepIsNonRestoring :
    (1 : Reg) ≠ 2 ∧
    ((start.put [(1, 5), (2, 4)]).sr.getLsbD 9 = false ∧
      -(((start.put [(1, 5), (2, 4)]).reg 1).toNat : Int) ≤
        ((start.put [(1, 5), (2, 4)]).reg 2).toNat - 2 ^ 32 * flag ((start.put [(1, 5), (2, 4)]).sr.getLsbD 8) ∧
      (((start.put [(1, 5), (2, 4)]).reg 2).toNat : Int) - 2 ^ 32 * flag ((start.put [(1, 5), (2, 4)]).sr.getLsbD 8) <
        ((start.put [(1, 5), (2, 4)]).reg 1).toNat) ∧
    { start with sr := 0x60000100 }.sr.getLsbD 9 = false ∧
    -((({ start with sr := 0x60000100 }.put [(1, 5), (2, 0xFFFFFFFB)]).reg 1).toNat : Int) ≤
      (({ start with sr := 0x60000100 }.put [(1, 5), (2, 0xFFFFFFFB)]).reg 2).toNat - 2 ^ 32 * flag true ∧
    ((({ start with sr := 0x60000100 }.put [(1, 5), (2, 0xFFFFFFFB)]).reg 2).toNat : Int) - 2 ^ 32 * flag true <
      (({ start with sr := 0x60000100 }.put [(1, 5), (2, 0xFFFFFFFB)]).reg 1).toNat := by decide

/-- Amounts 0 and 0x7FFFFFFF, -1 and the most negative. -/
theorem witness_DynamicShifts :
    0 ≤ (start.reg 1).toInt ∧ 0 ≤ ((start.put [(1, 0x7FFFFFFF)]).reg 1).toInt ∧
    ((start.put [(1, 0xFFFFFFFF)]).reg 1).toInt < 0 ∧ ((start.put [(1, 0x80000000)]).reg 1).toInt < 0 := by decide

end Sys2Proof.Tests
end

/-! PROOFS. System and control registers, flags (40_system_registers.md). -/

namespace Sys2Proof.Claim

open Sys2Proof.Machine

variable (s : State)

/-! What `exec` is for the five instructions that clear and set (R173 to R177). -/

theorem exec_clrt : exec .clrt s = finish (s.withT false) := rfl
theorem exec_sett : exec .sett s = finish (s.withT true) := rfl
theorem exec_clrmac : exec .clrmac s = finish { s with mach := 0, macl := 0 } := rfl
theorem exec_clrs : exec .clrs s = finish (s.withS false) := rfl
theorem exec_sets : exec .sets s = finish (s.withS true) := rfl

/-- An instruction that ends normally runs to the state it computed, moved on to the next instruction. -/
theorem runs_of_exec_eq_finish {s u : State} {i : Instr} {P : State → Prop} (he : exec i s = finish u)
    (hP : P u.advance) : Runs i s P :=
  ⟨u.advance, he.trans (finish_next.mpr rfl), hP⟩

/-- Writing S changes bit 1 of SR and nothing else. -/
theorem frame_withS_advance (b : Bool) : Frame s (s.withS b).advance [] 2 [] [] [] := by
  constructor
  case sr =>
    intro i hi
    have hne : i ≠ 1 := by rintro rfl; simp at hi
    simp [getLsbD_setBit, hne]
  case special => intro x _; exact special_congr (by simp) x
  all_goals simp

/-- Writing the multiply-accumulate registers changes MACH and MACL and nothing else. -/
theorem frame_setMac_advance (x y : DWord) :
    Frame s ({ s with mach := x, macl := y } : State).advance [] 0 [.mach, .macl] [] [] := by
  constructor
  case regs => intro p _; cases p <;> simp [State.readPhys]
  case special => intro z hz; cases z <;> simp_all [special]
  case bytes => intro a _; simp [State.byteAt]
  all_goals simp

/-- `CLRT` and `SETT` once `exec` is known to write T (R173, R174). -/
theorem runs_setsT {s : State} {i : Instr} {b : Bool} (he : exec i s = finish (s.withT b)) : Runs i s (SetsT s b) :=
  runs_of_exec_eq_finish he (setsT_advance s b)

/-- `CLRS` and `SETS` once `exec` is known to write S (R176, R177). -/
theorem runs_setsS {s : State} {i : Instr} {b : Bool} (he : exec i s = finish (s.withS b)) :
    Runs i s fun t => t.sr.getLsbD 1 = b ∧ Frame s t [] 2 [] [] [] ∧ InSequence s t :=
  runs_of_exec_eq_finish he
    ⟨by simp, frame_withS_advance s b, inSequence_advance (by simp) (by simp)⟩

/-- `CLRMAC` clears both registers (R175). -/
theorem runs_clrmac :
    Runs .clrmac s fun t => t.mach = 0 ∧ t.macl = 0 ∧ Frame s t [] 0 [.mach, .macl] [] [] ∧ InSequence s t :=
  runs_of_exec_eq_finish (exec_clrmac s)
    ⟨by simp, by simp, frame_setMac_advance s 0 0, inSequence_advance rfl rfl⟩

/-- The words of the five instructions (R173 to R177). -/
theorem decode_clearAndSet_words :
    decode 0x0008 = .ok .clrt ∧ decode 0x0018 = .ok .sett ∧ decode 0x0028 = .ok .clrmac ∧
      decode 0x0048 = .ok .clrs ∧ decode 0x0058 = .ok .sets := by decide

/-- Settles O29: the words by the decoder, each effect by the frame of the one flag or register pair written. -/
theorem clearAndSetInstructions : Obligations.ClearAndSetInstructions := by
  obtain ⟨hclrt, hsett, hclrmac, hclrs, hsets⟩ := decode_clearAndSet_words
  exact ⟨hclrt, hsett, hclrmac, hclrs, hsets, fun s =>
    ⟨runs_setsT (exec_clrt s), runs_setsT (exec_sett s), runs_clrmac s, runs_setsS (exec_clrs s),
      runs_setsS (exec_sets s)⟩⟩

end Sys2Proof.Claim

/-! PROOFS. Moves and immediates (43_data_transfer.md, 46_arithmetic.md): the forms that write one register. -/

namespace Sys2Proof.Claim

open Sys2Proof.Machine

/-- An instruction whose whole work is to write `x[n]` sets that register and nothing else. -/
theorem runs_setsReg {s : State} {i : Instr} {n : Reg} {v : DWord} (he : exec i s = finish (s.setReg n v)) :
    Runs i s (SetsReg s n v) :=
  runs_of_exec_eq_finish he (setsReg_advance s n v)

/-- A signed immediate is its value modulo 2^32 (R113). -/
theorem immSigned_eq (i : BitVec 8) : immSigned i = BitVec.ofInt 32 i.toInt := rfl

/-- Adding a signed immediate adds its value modulo 2^32 (R113, R356). -/
theorem add_immSigned (v : DWord) (i : BitVec 8) : v + immSigned i = BitVec.ofInt 32 (v.toNat + i.toInt) :=
  calc v + immSigned i = BitVec.ofInt 32 v.toNat + BitVec.ofInt 32 i.toInt := by
        rw [immSigned_eq, BitVec.ofInt_natCast, BitVec.ofNat_toNat, BitVec.setWidth_eq]
    _ = BitVec.ofInt 32 (v.toNat + i.toInt) := (BitVec.ofInt_add _ _).symm

/-! The words: the top nibble selects the group, and in group 6 the bottom nibble the instruction (R116). -/

theorem decode_mov_word (m n : Reg) : decode (word4444 0x6#4 n m 0x3#4) = .ok (.mov m n) := by
  simp [decode, decode6]

theorem decode_movImm_word (n : Reg) (i : BitVec 8) : decode (word448 0xE#4 n i) = .ok (.movImm i n) := by
  simp [decode]

theorem decode_addImm_word (n : Reg) (i : BitVec 8) : decode (word448 0x7#4 n i) = .ok (.addImm i n) := by
  simp [decode]

variable (s : State) (n : Reg)

/-! What `exec` is for the three instructions (R265, R282, R356). -/

theorem exec_mov (m : Reg) : exec (.mov m n) s = finish (s.setReg n (s.reg m)) := rfl

theorem exec_movImm (i : BitVec 8) : exec (.movImm i n) s = finish (s.setReg n (BitVec.ofInt 32 i.toInt)) :=
  congrArg (fun v => finish (s.setReg n v)) (immSigned_eq i)

theorem exec_addImm (i : BitVec 8) :
    exec (.addImm i n) s = finish (s.setReg n (BitVec.ofInt 32 ((s.reg n).toNat + i.toInt))) :=
  congrArg (fun v => finish (s.setReg n v)) (add_immSigned (s.reg n) i)

/-- Settles O45: the words field by field, and each instruction as one register write of the stated value. -/
theorem moveAndImmediateForms : Obligations.MoveAndImmediateForms :=
  ⟨decode_mov_word, fun n i => ⟨decode_movImm_word n i, decode_addImm_word n i⟩, fun s n =>
    ⟨fun m => runs_setsReg (exec_mov s n m), fun i => runs_setsReg (exec_movImm s n i),
      fun i => runs_setsReg (exec_addImm s n i)⟩⟩

end Sys2Proof.Claim

/-! PROOFS. Multiply (44_multiply_divide.md): the products that fill MACH:MACL. -/

namespace Sys2Proof.Claim

open Sys2Proof.Machine

/-- An instruction whose whole work is to write MACH and MACL leaves everything else alone; what is known of the two
values written is known of the registers. -/
theorem runs_setMac {s : State} {i : Instr} {x y : DWord} {R : DWord → DWord → Prop}
    (he : exec i s = finish { s with mach := x, macl := y }) (hR : R x y) :
    Runs i s fun t => R t.mach t.macl ∧ Frame s t [] 0 [.mach, .macl] [] [] ∧ InSequence s t :=
  runs_of_exec_eq_finish he
    ⟨by simpa using hR, frame_setMac_advance s x y, inSequence_advance rfl rfl⟩

variable (m n : Reg)

/-! The words: the top nibble selects group 3, the bottom nibble the instruction (R116). -/

theorem decode_dmulul_word : decode (word4444 0x3#4 n m 0x5#4) = .ok (.dmulul m n) := by
  simp [decode, decode3]

theorem decode_dmulsl_word : decode (word4444 0x3#4 n m 0xD#4) = .ok (.dmulsl m n) := by
  simp [decode, decode3]

variable (s : State)

/-! What `exec` is for the two instructions (R303, R304). -/

theorem exec_dmulul : exec (.dmulul m n) s = finish { s with
    mach := (productUnsigned (s.reg n) (s.reg m)).extractLsb' 32 32
    macl := (productUnsigned (s.reg n) (s.reg m)).extractLsb' 0 32 } := rfl

theorem exec_dmulsl : exec (.dmulsl m n) s = finish { s with
    mach := (productSigned (s.reg n) (s.reg m)).extractLsb' 32 32
    macl := (productSigned (s.reg n) (s.reg m)).extractLsb' 0 32 } := rfl

/-- `DMULU.L` leaves the unsigned product in MACH:MACL (R303). -/
theorem runs_dmulul : Runs (.dmulul m n) s fun t =>
    t.mach.toNat * 2 ^ 32 + t.macl.toNat = (s.reg n).toNat * (s.reg m).toNat ∧
      Frame s t [] 0 [.mach, .macl] [] [] ∧ InSequence s t :=
  runs_setMac (R := fun x y => x.toNat * 2 ^ 32 + y.toNat = (s.reg n).toNat * (s.reg m).toNat)
    (exec_dmulul m n s) (productUnsigned_halves _ _)

/-- `DMULS.L` leaves the signed product in MACH:MACL, its sign in MACH (R304). -/
theorem runs_dmulsl : Runs (.dmulsl m n) s fun t =>
    t.mach.toInt * 2 ^ 32 + t.macl.toNat = (s.reg n).toInt * (s.reg m).toInt ∧
      Frame s t [] 0 [.mach, .macl] [] [] ∧ InSequence s t :=
  runs_setMac (R := fun x y => x.toInt * 2 ^ 32 + y.toNat = (s.reg n).toInt * (s.reg m).toInt)
    (exec_dmulsl m n s) (productSigned_halves _ _)

/-- Settles O47: the words field by field, and each instruction as one write of the two halves of its product. -/
theorem doubleMultiplyIsExact : Obligations.DoubleMultiplyIsExact := fun m n =>
  ⟨decode_dmulul_word m n, decode_dmulsl_word m n, fun s => ⟨runs_dmulul m n s, runs_dmulsl m n s⟩⟩

end Sys2Proof.Claim

/-! PROOFS. Logic between registers (45_logic_compare.md): the words, and what each bit of the result is. -/

namespace Sys2Proof.Claim

open Sys2Proof.Machine

/-- An instruction whose whole work is to write `x[n]` leaves everything else alone; what is known of the value written
is known of the register. -/
theorem runs_setsReg_of {s : State} {i : Instr} {n : Reg} {v : DWord} {P : DWord → Prop}
    (he : exec i s = finish (s.setReg n v)) (hP : P v) : Runs i s fun t => ∃ v, SetsReg s n v t ∧ P v :=
  runs_of_exec_eq_finish he ⟨v, setsReg_advance s n v, hP⟩

variable (m n : Reg)

/-! The words: the top nibble selects group 2 or 6, the bottom nibble the instruction (R116). -/

theorem decode_and_word : decode (word4444 0x2#4 n m 0x9#4) = .ok (.and m n) := by
  simp [decode, decode2]

theorem decode_xor_word : decode (word4444 0x2#4 n m 0xA#4) = .ok (.xor m n) := by
  simp [decode, decode2]

theorem decode_or_word : decode (word4444 0x2#4 n m 0xB#4) = .ok (.or m n) := by
  simp [decode, decode2]

theorem decode_not_word : decode (word4444 0x6#4 n m 0x7#4) = .ok (.not m n) := by
  simp [decode, decode6]

variable (s : State)

/-! What `exec` is for the four instructions (R321 to R324). -/

theorem exec_and : exec (.and m n) s = finish (s.setReg n (s.reg n &&& s.reg m)) := rfl
theorem exec_xor : exec (.xor m n) s = finish (s.setReg n (s.reg n ^^^ s.reg m)) := rfl
theorem exec_or : exec (.or m n) s = finish (s.setReg n (s.reg n ||| s.reg m)) := rfl
theorem exec_not : exec (.not m n) s = finish (s.setReg n (~~~s.reg m)) := rfl

/-- Settles O50: the words field by field, and each instruction as one register write whose bits the bitwise operation
gives. -/
theorem registerLogic : Obligations.RegisterLogic := fun m n =>
  ⟨decode_and_word m n, decode_xor_word m n, decode_or_word m n, decode_not_word m n, fun s =>
    ⟨runs_setsReg_of (exec_and m n s) fun _ => BitVec.getLsbD_and,
      runs_setsReg_of (exec_xor m n s) fun _ => BitVec.getLsbD_xor,
      runs_setsReg_of (exec_or m n s) fun _ => BitVec.getLsbD_or,
      runs_setsReg_of (exec_not m n s) fun _ hi => by simp [BitVec.getLsbD_not, hi]⟩⟩

end Sys2Proof.Claim

/-! PROOFS. Extensions (46_arithmetic.md section 3): the low byte or word read as unsigned or signed. -/

namespace Sys2Proof.Claim

open Sys2Proof.Machine

variable (m n : Reg)

/-! The words: the top nibble selects group 6, the bottom nibble the instruction (R116). -/

theorem decode_extub_word : decode (word4444 0x6#4 n m 0xC#4) = .ok (.extub m n) := by
  simp [decode, decode6]

theorem decode_extuw_word : decode (word4444 0x6#4 n m 0xD#4) = .ok (.extuw m n) := by
  simp [decode, decode6]

theorem decode_extsb_word : decode (word4444 0x6#4 n m 0xE#4) = .ok (.extsb m n) := by
  simp [decode, decode6]

theorem decode_extsw_word : decode (word4444 0x6#4 n m 0xF#4) = .ok (.extsw m n) := by
  simp [decode, decode6]

variable (s : State)

/-! What `exec` is for the four instructions (R360 to R363): one write of the extended value, which `zext8_eq` and the
laws beside it read as the low part's remainder or signed value. -/

theorem exec_extub : exec (.extub m n) s = finish (s.setReg n (BitVec.ofNat 32 ((s.reg m).toNat % 2 ^ 8))) :=
  congrArg (fun v => finish (s.setReg n v)) (zext8_eq (s.reg m))

theorem exec_extuw : exec (.extuw m n) s = finish (s.setReg n (BitVec.ofNat 32 ((s.reg m).toNat % 2 ^ 16))) :=
  congrArg (fun v => finish (s.setReg n v)) (zext16_eq (s.reg m))

theorem exec_extsb :
    exec (.extsb m n) s = finish (s.setReg n (BitVec.ofInt 32 ((s.reg m).extractLsb' 0 8).toInt)) :=
  congrArg (fun v => finish (s.setReg n v)) (sext8_eq (s.reg m))

theorem exec_extsw :
    exec (.extsw m n) s = finish (s.setReg n (BitVec.ofInt 32 ((s.reg m).extractLsb' 0 16).toInt)) :=
  congrArg (fun v => finish (s.setReg n v)) (sext16_eq (s.reg m))

/-- Settles O56: the words field by field, and each instruction as one register write of the extended low part. -/
theorem extensionsOfLowPart : Obligations.ExtensionsOfLowPart := fun m n =>
  ⟨decode_extub_word m n, decode_extuw_word m n, decode_extsb_word m n, decode_extsw_word m n, fun s =>
    ⟨runs_setsReg (exec_extub m n s), runs_setsReg (exec_extuw m n s), runs_setsReg (exec_extsb m n s),
      runs_setsReg (exec_extsw m n s)⟩⟩

end Sys2Proof.Claim

/-! PROOFS. Encoding (30_encoding.md): decoder and encoder are inverse, and which words hold no instruction. -/

namespace Sys2Proof

/-! The fields of a word determine it (R6, R111). -/

/-- The word a four-nibble form writes is the one with these nibbles. -/
theorem word4444_eq_iff {a b c d : BitVec 4} {w : Word} :
    word4444 a b c d = w ↔ nib3 w = a ∧ nib2 w = b ∧ nib1 w = c ∧ nib0 w = d := by
  constructor
  · rintro rfl; simp
  · rintro ⟨rfl, rfl, rfl, rfl⟩
    have high : w.extractLsb' 12 4 ++ w.extractLsb' 8 4 = w.extractLsb' 8 8 :=
      BitVec.extractLsb'_append_extractLsb'_eq_extractLsb' rfl
    have mid : w.extractLsb' 8 8 ++ w.extractLsb' 4 4 = w.extractLsb' 4 12 :=
      BitVec.extractLsb'_append_extractLsb'_eq_extractLsb' rfl
    have low : w.extractLsb' 4 12 ++ w.extractLsb' 0 4 = w.extractLsb' 0 16 :=
      BitVec.extractLsb'_append_extractLsb'_eq_extractLsb' rfl
    rw [word4444, nib3, nib2, nib1, nib0, high, mid, low, BitVec.extractLsb'_eq_self]

/-- The word a form with an 8-bit field writes is the one with these fields. -/
theorem word448_eq_iff {a b : BitVec 4} {d : BitVec 8} {w : Word} :
    word448 a b d = w ↔ nib3 w = a ∧ nib2 w = b ∧ low8 w = d := by
  constructor
  · rintro rfl; simp
  · rintro ⟨rfl, rfl, rfl⟩
    have high : w.extractLsb' 12 4 ++ w.extractLsb' 8 4 = w.extractLsb' 8 8 :=
      BitVec.extractLsb'_append_extractLsb'_eq_extractLsb' rfl
    have low : w.extractLsb' 8 8 ++ w.extractLsb' 0 8 = w.extractLsb' 0 16 :=
      BitVec.extractLsb'_append_extractLsb'_eq_extractLsb' rfl
    rw [word448, nib3, nib2, low8, high, low, BitVec.extractLsb'_eq_self]

/-- The word a form with a 12-bit field writes is the one with these fields. -/
theorem word412_eq_iff {a : BitVec 4} {d : BitVec 12} {w : Word} :
    word412 a d = w ↔ nib3 w = a ∧ low12 w = d := by
  constructor
  · rintro rfl; simp
  · rintro ⟨rfl, rfl⟩
    have all : w.extractLsb' 12 4 ++ w.extractLsb' 0 12 = w.extractLsb' 0 16 :=
      BitVec.extractLsb'_append_extractLsb'_eq_extractLsb' rfl
    rw [word412, nib3, low12, all, BitVec.extractLsb'_eq_self]

/-- A nibble with none of the values 0 to E is F: the case that the groups 2, 3 and 6 leave to their last line. -/
theorem nibble_eq_F : ∀ x : BitVec 4, (x = 0x0#4 → False) → (x = 0x1#4 → False) → (x = 0x2#4 → False) →
    (x = 0x3#4 → False) → (x = 0x4#4 → False) → (x = 0x5#4 → False) → (x = 0x6#4 → False) → (x = 0x7#4 → False) →
    (x = 0x8#4 → False) → (x = 0x9#4 → False) → (x = 0xA#4 → False) → (x = 0xB#4 → False) → (x = 0xC#4 → False) →
    (x = 0xD#4 → False) → (x = 0xE#4 → False) → x = 0xF#4 := by
  decide

/-! Decode after encode. -/

/-- The decoder gives back every instruction from its word: the top nibble leads to the instruction's group, and the
sub-opcode in the group to the instruction (R115, R116). -/
theorem decode_encode (i : Instr) : decode (encode i) = .ok i := by
  cases i
  case stc | sts | clrt | sett | clrmac | clrs | sets | nott | nop | movt | movrt | bsrf | braf | rts | rtsN | pref |
      movcal | icbi | movbStoreR0 | movwStoreR0 | movlStoreR0 | movbLoadR0 | movwLoadR0 | movlLoadR0 | mull | div0u |
      rte | sleep | brk | ldtlb | movual | movualDec | rtvN => simp [encode, decode, decode0, exact0]
  case stsl | stcl | ldsl | ldcl | lds | ldc | jsr | jmp | movbStorePc | movwStorePc | movlStorePc | movbLoadPc |
      movwLoadPc | movlLoadPc | leab | cmppz | cmppl | dt | shll | shal | shlr | shar | rotl | rotr | rotcl | rotcr |
      shll2 | shll8 | shll16 | shlr2 | shlr8 | shlr16 | shll4 | shlr4 | shad | shld | jsrN =>
    simp [encode, decode, decode4]
  case casl | movbStore | movwStore | movlStore | movbStoreDec | movwStoreDec | movlStoreDec | muluw | mulsw | div0s |
      tst | and | xor | or | cmpstr | xtrct => simp [encode, decode, decode2]
  case dmulul | dmulsl | div1 | cmpeq | cmphs | cmpge | cmphi | cmpgt | sub | subc | subv | add | addc | addv =>
    simp [encode, decode, decode3]
  case movbLoad | movwLoad | movlLoad | mov | movbLoadInc | movwLoadInc | movlLoadInc | not | neg | negc | extub |
      extuw | extsb | extsw | swapb | swapw => simp [encode, decode, decode6]
  case braN | bt | bf | bts | bfs | movbStoreDisp | movwStoreDisp | movbLoadDisp | movwLoadDisp | cmpeqImm =>
    simp [encode, decode, decode8]
  case movbStoreGbr | movwStoreGbr | movlStoreGbr | movbLoadGbr | movwLoadGbr | movlLoadGbr | mova | tstImm | andImm |
      xorImm | orImm | trapa => simp [encode, decode, decodeC]
  case bra | bsr | movlStoreDisp | movlLoadDisp | movwLoadPcDisp | movlLoadPcDisp | movImm | addImm =>
    simp [encode, decode]

/-- Settles O1: the word by `decode_encode`, the bytes because they make the word again in either order. -/
theorem decodeInvertsEncode : Obligations.DecodeInvertsEncode :=
  ⟨decode_encode, fun e i rest => by simp only [decodeBytes, wordOfBytes_bytesOfWord, decode_encode]⟩

/-! Encode after decode. -/

/-- What the decoder of a group must answer for the word `w`: an instruction only if `w` is its encoding. -/
def Inverts (w : Word) (r : Except DecodeError Instr) : Prop := ∀ i, r = .ok i → encode i = w

@[simp] theorem inverts_error {w : Word} {e : DecodeError} : Inverts w (.error e) := by
  intro i h; cases h

@[simp] theorem inverts_ok {w : Word} {i : Instr} : Inverts w (.ok i) ↔ encode i = w := by
  simp [Inverts]

/-- A zero-operand row answers its instruction where nibble 2 is 0 (R134). -/
@[simp] theorem inverts_exact0 {w : Word} {i : Instr} :
    Inverts w (exact0 w i) ↔ (nib2 w = 0x0#4 → encode i = w) := by
  unfold exact0
  split <;> simp [*]

variable {w : Word}

/-- Group 0: nibble 0, then nibble 1, and nibble 2 in the zero-operand rows. -/
theorem inverts_decode0 (h : nib3 w = 0x0#4) : Inverts w (decode0 w) := by
  unfold decode0
  split <;> try split
  all_goals simp [encode, word4444_eq_iff, *]

/-- Group 2: nibble 0. -/
theorem inverts_decode2 (h : nib3 w = 0x2#4) : Inverts w (decode2 w) := by
  unfold decode2
  split
  case h_16 =>
    have hF : nib0 w = 0xF#4 := by apply nibble_eq_F <;> assumption
    simp [encode, word4444_eq_iff, h, hF]
  all_goals simp [encode, word4444_eq_iff, *]

/-- Group 3: nibble 0. -/
theorem inverts_decode3 (h : nib3 w = 0x3#4) : Inverts w (decode3 w) := by
  unfold decode3
  split
  case h_16 =>
    have hF : nib0 w = 0xF#4 := by apply nibble_eq_F <;> assumption
    simp [encode, word4444_eq_iff, h, hF]
  all_goals simp [encode, word4444_eq_iff, *]

/-- Group 4: nibble 0, then nibble 1. -/
theorem inverts_decode4 (h : nib3 w = 0x4#4) : Inverts w (decode4 w) := by
  unfold decode4
  split <;> try split
  all_goals simp [encode, word4444_eq_iff, *]

/-- Group 6: nibble 0. -/
theorem inverts_decode6 (h : nib3 w = 0x6#4) : Inverts w (decode6 w) := by
  unfold decode6
  split
  case h_16 =>
    have hF : nib0 w = 0xF#4 := by apply nibble_eq_F <;> assumption
    simp [encode, word4444_eq_iff, h, hF]
  all_goals simp [encode, word4444_eq_iff, *]

/-- Group 8: nibble 2, then two nibbles or an 8-bit field. -/
theorem inverts_decode8 (h : nib3 w = 0x8#4) : Inverts w (decode8 w) := by
  unfold decode8
  split
  all_goals simp [encode, word4444_eq_iff, word448_eq_iff, *]

/-- Group C: nibble 2, then an 8-bit field. -/
theorem inverts_decodeC (h : nib3 w = 0xC#4) : Inverts w (decodeC w) := by
  unfold decodeC
  split
  all_goals simp [encode, word448_eq_iff, *]

/-- The decoder answers an instruction only for its encoding: by the group that nibble 3 names (R115, R116). -/
theorem inverts_decode (w : Word) : Inverts w (decode w) := by
  unfold decode
  split
  case h_1 h => exact inverts_decode0 h
  case h_3 h => exact inverts_decode2 h
  case h_4 h => exact inverts_decode3 h
  case h_5 h => exact inverts_decode4 h
  case h_7 h => exact inverts_decode6 h
  case h_9 h => exact inverts_decode8 h
  case h_13 h => exact inverts_decodeC h
  all_goals simp [encode, word4444_eq_iff, word448_eq_iff, word412_eq_iff, *]

/-- Settles O2, by the group of the word. -/
theorem encodeInvertsDecode : Obligations.EncodeInvertsDecode := inverts_decode

/-! Fixed words, and the words without an instruction. -/

/-- Settles O3: fourteen words, each decoded. -/
theorem exampleWordsDecode : Obligations.ExampleWordsDecode := by
  unfold Obligations.ExampleWordsDecode
  decide

@[simp] theorem nib1_word448 (a b : BitVec 4) (d : BitVec 8) : nib1 (word448 a b d) = d.extractLsb' 4 4 := by
  ext i hi
  have h : 4 + i < 8 := by omega
  simp only [nib1, word448, BitVec.getElem_extractLsb', BitVec.getLsbD_append]
  simp [h]

@[simp] theorem nib0_word448 (a b : BitVec 4) (d : BitVec 8) : nib0 (word448 a b d) = d.extractLsb' 0 4 := by
  ext i hi
  have h : i < 8 := by omega
  simp only [nib0, word448, BitVec.getElem_extractLsb', BitVec.getLsbD_append, Nat.zero_add]
  simp [h]

/-- A word written as two bytes. -/
theorem append_eq_word448 (high low : BitVec 8) :
    high ++ low = word448 (high.extractLsb' 4 4) (high.extractLsb' 0 4) low := by
  rw [word448, BitVec.extractLsb'_append_extractLsb']

/-- The words of R132 in group 4. -/
theorem decode_group4_extension (n : BitVec 4) (low : BitVec 8)
    (h : low ∈ ([0x61, 0x71, 0xA1, 0xB1, 0x14, 0x44, 0x54, 0xA5, 0xB5, 0x38, 0x48, 0x58, 0x68, 0x78, 0x39,
      0xA9, 0xE9, 0x1B, 0x8B, 0x9B, 0xAB, 0xCB, 0xDB, 0xEB] : List (BitVec 8))) :
    decode (word448 0x4#4 n low) = .error .extensionSlot := by
  fin_cases h <;> simp [decode, decode4]

/-- The words of R132 in groups 8 and C. -/
theorem decode_group8C_extension (high low : BitVec 8)
    (h : high ∈ ([0x83, 0x86, 0x87, 0x8A, 0x8C, 0x8E, 0xCC, 0xCD, 0xCE, 0xCF] : List (BitVec 8))) :
    decode (high ++ low) = .error .extensionSlot := by
  rw [append_eq_word448]
  fin_cases h <;> simp [decode, decode8, decodeC]

/-- A zero-operand row with another nibble 2 (R134). -/
theorem decode_exact0_of_ne (n : BitVec 4) (hn : n ≠ 0) (low : BitVec 8)
    (h : low ∈ ([0x08, 0x18, 0x28, 0x38, 0x48, 0x58, 0x68, 0x19, 0x0B, 0x1B, 0x2B, 0x3B, 0x6B] : List (BitVec 8))) :
    decode (word448 0x0#4 n low) = .error .unlisted := by
  have hn' : n ≠ 0x0#4 := hn
  fin_cases h <;> simp [decode, decode0, exact0, hn']

/-- The other words of group 4 that R134 names. -/
theorem decode_group4_unlisted (n : BitVec 4) (low : BitVec 8)
    (h : low ∈ ([0x30, 0x80, 0x49, 0x3B, 0xBB] : List (BitVec 8))) :
    decode (word448 0x4#4 n low) = .error .unlisted := by
  fin_cases h <;> simp [decode, decode4]

/-- Settles O4: each block through the group decoder that rejects it. -/
theorem reservedWordsHoldNoInstruction : Obligations.ReservedWordsHoldNoInstruction := by
  refine ⟨fun a b c => ?_, fun a b => ?_, fun a b => ?_, fun n m => ⟨?_, ?_, ?_, ?_⟩, decode_group4_extension,
    fun low high => decode_group8C_extension high low, decode_exact0_of_ne, fun n => ⟨?_, ?_, ?_,
      decode_group4_unlisted n⟩⟩
  · show decode (word4444 0xF#4 a b c) = _; simp [decode]
  · show decode (word4444 0x0#4 a b 0x0#4) = _; simp [decode, decode0]
  · show decode (word4444 0x0#4 a b 0x1#4) = _; simp [decode, decode0]
  · show decode (word4444 0x0#4 n m 0xF#4) = _; simp [decode, decode0]
  · show decode (word4444 0x4#4 n m 0xF#4) = _; simp [decode, decode4]
  · show decode (word4444 0x3#4 n m 0x1#4) = _; simp [decode, decode3]
  · show decode (word4444 0x3#4 n m 0x9#4) = _; simp [decode, decode3]
  · show decode (word448 0x0#4 n 0x33#8) = _; simp [decode, decode0]
  · show decode (word448 0x0#4 n 0xD3#8) = _; simp [decode, decode0]
  · show decode (word448 0x0#4 n 0x78#8) = _; simp [decode, decode0]

end Sys2Proof

/-! PROOFS. The step in the words of the statements (41_branch.md R200, 60_exceptions.md R441): the boundary, the fetch,
and one inversion lemma from which the invariants follow. -/

namespace Sys2Proof.Claim

open Sys2Proof.Machine

variable {s t : State}

/-! The boundary. -/

/-- The interrupt mask as a number (R35). -/
theorem im_toNat (s : State) : s.im.toNat = s.sr.toNat / 16 % 16 := by
  simp [State.im, Nat.shiftRight_eq_div_pow]

/-- The acceptance test (R441). -/
theorem accepts_iff {l : BitVec 4} : s.accepts l = true ↔ Accepts s l := by
  simp [State.accepts, Accepts, State.inSlot, State.bl, im_toNat, and_assoc]

/-- The request this boundary sees (R440). -/
theorem irqNow_eq_some {l : BitVec 4} : s.irqNow = some l ↔ s.irqs.head? = some (some l) := by
  unfold State.irqNow
  cases s.irqs <;> simp

/-- No request is accepted at this boundary. -/
def Quiet (s : State) : Prop := ∀ l, s.irqs.head? = some (some l) → ¬Accepts s l

theorem quiet_iff : Quiet s ↔ ∀ l, s.irqNow = some l → s.consumeIrq.accepts l = false := by
  simp only [Quiet, irqNow_eq_some, ← Bool.not_eq_true]
  exact forall_congr' fun l => imp_congr_right fun _ => not_congr accepts_iff.symm

/-- A request to come that can end the sleep (R412). -/
theorem canWake_iff : s.canWake = true ↔ WillWake s := by
  simp only [State.canWake, List.any_eq_true, WillWake]
  constructor
  · rintro ⟨_ | l, hr, ha⟩
    · cases ha
    · exact ⟨l, hr, accepts_iff.mp ha⟩
  · rintro ⟨l, hr, ha⟩
    exact ⟨some l, hr, accepts_iff.mpr ha⟩

/-- An accepted request is taken, asleep or awake (R441). -/
theorem step_of_accepts {l : BitVec 4} (hr : s.irqs.head? = some (some l)) (ha : Accepts s l) :
    step s = .next ((afterBoundary s).enterTrap (.interrupt l) s.pc s.cfg.vecInterrupt) :=
  step_next.mpr (.inl ⟨l, irqNow_eq_some.mpr hr, accepts_iff.mpr ha, rfl⟩)

/-- At a quiet boundary the core does what it does without a request (R441). -/
theorem boundary_of_quiet (hq : Quiet s) : boundary s.irqNow s.consumeIrq = s.consumeIrq.unaccepting := by
  unfold boundary
  split
  · rename_i l hl
    simp [quiet_iff.mp hq l hl]
  · rfl

/-- A core awake at a quiet boundary fetches (R441). -/
theorem step_of_awake (hq : Quiet s) (hs : s.sleeping = false) :
    step s = withFetch (afterBoundary s) (runWord exec) := by
  unfold step
  simp only [boundary_of_quiet hq, State.unaccepting, consumeIrq_sleeping, hs]
  rfl

/-- A request to come is one of this boundary or one of a later boundary. -/
theorem willWake_afterBoundary (hq : Quiet s) : WillWake (afterBoundary s) ↔ WillWake s := by
  constructor
  · rintro ⟨l, hl, ha⟩
    exact ⟨l, List.mem_of_mem_tail hl, ha⟩
  · rintro ⟨l, hl, ha⟩
    refine ⟨l, ?_, ha⟩
    unfold Quiet at hq
    cases hi : s.irqs with
    | nil => simp [hi] at hl
    | cons r rest =>
      simp only [hi, List.head?_cons, Option.some.injEq] at hq
      simp only [hi, List.mem_cons] at hl
      rcases hl with rfl | hl
      · exact absurd ha (hq l rfl)
      · simpa [afterBoundary, hi] using hl

/-- A sleeping core at a quiet boundary is idle while a request to come can wake it (R441). -/
theorem step_of_asleep (hq : Quiet s) (hs : s.sleeping = true) (hw : WillWake s) :
    step s = .next (afterBoundary s) :=
  step_next.mpr (.inr (.inl ⟨quiet_iff.mp hq, hs, canWake_iff.mpr ((willWake_afterBoundary hq).mpr hw), rfl⟩))

/-- A sleeping core that no request to come can wake has no next state (R412). -/
theorem step_of_asleepForGood (hs : s.sleeping = true) (hw : ¬WillWake s) : step s = .fault .endlessSleep := by
  refine step_asleepForGood ?_
  simp [State.asleepForGood, hs, mt canWake_iff.mp hw]

/-! The fetch. -/

/-- The word a fetch reads (R73). -/
theorem fetchWord_eq (s : State) : s.fetchWord = wordAt s := by
  unfold State.fetchWord wordAt
  rw [show (2 : Nat) = Width.word.bytes from rfl, valueAt_eq]
  rfl

/-- At an even pc the instruction sees the state after the read (R76). -/
theorem fetched_of_even (h : s.pc.getLsbD 0 = false) : fetched s = (afterBoundary s).afterLoad .word s.pc := by
  simp only [fetched, h, Bool.false_eq_true, if_false]
  exact afterRead_eq _ .word _

/-- At an odd pc nothing is read (R76). -/
theorem fetched_of_odd (h : s.pc.getLsbD 0 = true) : fetched s = afterBoundary s := by
  simp [fetched, h]

/-- The boundary and the fetch change the environment's input and what reached devices, and nothing else. -/
theorem fetched_eq_with (s : State) : ∃ input log,
    fetched s = { s with irqs := s.irqs.tail, deviceInput := input, deviceLog := log } := by
  unfold fetched afterRead
  split
  · exact ⟨_, _, rfl⟩
  · split <;> exact ⟨_, _, rfl⟩

@[simp] theorem fetched_pc (s : State) : (fetched s).pc = s.pc := by
  obtain ⟨_, _, h⟩ := fetched_eq_with s; rw [h]
@[simp] theorem fetched_sr (s : State) : (fetched s).sr = s.sr := by
  obtain ⟨_, _, h⟩ := fetched_eq_with s; rw [h]
@[simp] theorem fetched_vbr (s : State) : (fetched s).vbr = s.vbr := by
  obtain ⟨_, _, h⟩ := fetched_eq_with s; rw [h]
@[simp] theorem fetched_ssr (s : State) : (fetched s).ssr = s.ssr := by
  obtain ⟨_, _, h⟩ := fetched_eq_with s; rw [h]
@[simp] theorem fetched_spc (s : State) : (fetched s).spc = s.spc := by
  obtain ⟨_, _, h⟩ := fetched_eq_with s; rw [h]
@[simp] theorem fetched_sgr (s : State) : (fetched s).sgr = s.sgr := by
  obtain ⟨_, _, h⟩ := fetched_eq_with s; rw [h]
@[simp] theorem fetched_dbr (s : State) : (fetched s).dbr = s.dbr := by
  obtain ⟨_, _, h⟩ := fetched_eq_with s; rw [h]
@[simp] theorem fetched_delayTarget (s : State) : (fetched s).delayTarget = s.delayTarget := by
  obtain ⟨_, _, h⟩ := fetched_eq_with s; rw [h]
@[simp] theorem fetched_sleeping (s : State) : (fetched s).sleeping = s.sleeping := by
  obtain ⟨_, _, h⟩ := fetched_eq_with s; rw [h]
@[simp] theorem fetched_lastCause (s : State) : (fetched s).lastCause = s.lastCause := by
  obtain ⟨_, _, h⟩ := fetched_eq_with s; rw [h]
@[simp] theorem fetched_icacheStale (s : State) : (fetched s).icacheStale = s.icacheStale := by
  obtain ⟨_, _, h⟩ := fetched_eq_with s; rw [h]
@[simp] theorem fetched_mem (s : State) : (fetched s).mem = s.mem := by
  obtain ⟨_, _, h⟩ := fetched_eq_with s; rw [h]
@[simp] theorem fetched_cfg (s : State) : (fetched s).cfg = s.cfg := by
  obtain ⟨_, _, h⟩ := fetched_eq_with s; rw [h]
@[simp] theorem fetched_irqs (s : State) : (fetched s).irqs = s.irqs.tail := by
  obtain ⟨_, _, h⟩ := fetched_eq_with s; rw [h]
@[simp] theorem fetched_readPhys (s : State) (p : PhysReg) : (fetched s).readPhys p = s.readPhys p := by
  obtain ⟨_, _, h⟩ := fetched_eq_with s; rw [h]; cases p <;> rfl
@[simp] theorem fetched_bl (s : State) : (fetched s).bl = s.bl := by simp [State.bl]
@[simp] theorem fetched_inSlot (s : State) : (fetched s).inSlot = s.inSlot := by simp [State.inSlot]
@[simp] theorem fetched_faultPc (s : State) : (fetched s).faultPc = s.faultPc := by simp [State.faultPc]
@[simp] theorem fetched_privOk (s : State) : (fetched s).privOk = s.privOk := by simp [State.privOk, State.md]
@[simp] theorem fetched_bankBMapped (s : State) : (fetched s).bankBMapped = s.bankBMapped := by
  simp [State.bankBMapped, State.md, State.rb]

/-- The boundary and the fetch add to what reached devices the read of the fetch, where a device answers it. -/
theorem devicesFollow_fetched (s : State) : s.devicesFollow (fetched s) := by
  cases h : s.pc.getLsbD 0
  · rw [fetched_of_even h]
    exact (devicesFollow_refl s).trans (devicesFollow_afterLoad (afterBoundary s) .word s.pc) rfl
  · rw [fetched_of_odd h]
    exact devicesFollow_refl s

/-- The fetch at an odd pc (R76, R433). -/
theorem withFetch_of_odd {k : Word → State → Result} (h : s.pc.getLsbD 0 = true) :
    withFetch s k = raise (.addressErrorRead s.pc) s.pc s := by
  simp [withFetch, h]

/-- An even address is aligned to a word. -/
theorem even_iff (a : DWord) : a.getLsbD 0 = false ↔ a.toNat % 2 = 0 := by
  simp [BitVec.getLsbD, Nat.testBit_zero]

/-- A word access that is answered is at an even address. -/
theorem even_of_answered {a : DWord} (h : Answered s 2 a) : a.getLsbD 0 = false := (even_iff a).mpr h.1

/-- A word access that is answered is not refused (R79). -/
theorem accessRefusal_of_answered {a : DWord} (h : Answered s 2 a) : s.accessRefusal .word a = none :=
  ((answered_iff s .word a).mp h).2

/-- A fetch that is answered from a fresh unit goes on with the word read (R73, R86). -/
theorem withFetch_of_fresh {k : Word → State → Result} (ha : Answered s 2 s.pc) (hf : s.pc.toNat ∉ s.icacheStale) :
    withFetch s k = k (wordAt s) (s.afterLoad .word s.pc) := by
  unfold withFetch
  rw [even_of_answered ha, accessRefusal_of_answered ha, ← fetchWord_eq]
  simp [hf]

/-- A fetch that is answered from a stale unit is refused (R86). -/
theorem withFetch_of_stale {k : Word → State → Result} (ha : Answered s 2 s.pc) (hf : s.pc.toNat ∈ s.icacheStale) :
    withFetch s k = .refused (.staleFetch s.pc) := by
  unfold withFetch
  rw [even_of_answered ha, accessRefusal_of_answered ha]
  simp [hf]

/-- The word a fetching step reads. -/
theorem Fetches.word_eq {w : Word} (h : Fetches s w) : w = wordAt s := by
  apply BitVec.eq_of_toNat_eq
  rw [wordAt, BitVec.toNat_ofNat, ← h.word, Nat.mod_eq_of_lt w.isLt]

/-- A step that fetches does with the word what `runWord` says (R115). -/
theorem Fetches.step_eq {w : Word} (h : Fetches s w) : step s = runWord exec w (fetched s) := by
  rw [step_of_awake h.quiet h.awake, h.word_eq, fetched_of_even (even_of_answered h.answered)]
  exact withFetch_of_fresh (s := afterBoundary s) h.answered h.fresh

theorem runWord_of_ok {w : Word} {i : Instr} (h : decode w = .ok i) : runWord exec w s = exec i s := by
  simp [runWord, h]

theorem runWord_of_error {w : Word} {e : DecodeError} (h : decode w = .error e) :
    runWord exec w s = raiseIllegal w s := by
  simp [runWord, h]

/-- What follows the fetch ends as an instruction does. -/
theorem runWord_ends {w : Word} (h : runWord exec w s = .next t) : Ends s t := by
  cases hd : decode w with
  | ok i => exact exec_ends i (runWord_of_ok hd ▸ h)
  | error e => exact ends_illegal (runWord_of_error hd ▸ h)

/-! What a step does when it has a next state. -/

/-- The four ways of a step that has a next state: an interrupt taken, asleep, an odd pc, an instruction (R441, R76). -/
theorem step_inversion (h : step s = .next t) :
    (∃ l, s.irqs.head? = some (some l) ∧ Accepts s l ∧
      t = (afterBoundary s).enterTrap (.interrupt l) s.pc s.cfg.vecInterrupt) ∨
    (Quiet s ∧ s.sleeping = true ∧ t = afterBoundary s) ∨
    (Quiet s ∧ s.sleeping = false ∧ s.pc.getLsbD 0 = true ∧
      t = (afterBoundary s).enterTrap (.addressErrorRead s.pc) s.pc s.cfg.vecGeneral) ∨
    (Quiet s ∧ s.sleeping = false ∧ s.pc.getLsbD 0 = false ∧ runWord exec (wordAt s) (fetched s) = .next t) := by
  rcases step_next.mp h with ⟨l, hl, ha, ht⟩ | ⟨hq, hs, _, ht⟩ | ⟨hq, hs, hf⟩
  · exact .inl ⟨l, irqNow_eq_some.mp hl, accepts_iff.mp ha, ht⟩
  · exact .inr (.inl ⟨quiet_iff.mpr hq, hs, ht⟩)
  · rcases withFetch_next.mp hf with ⟨he, _, _, hk⟩ | ⟨ho, hr⟩
    · rw [fetchWord_eq] at hk
      exact .inr (.inr (.inr ⟨quiet_iff.mpr hq, hs, he, by rw [fetched_of_even (s := s) he]; exact hk⟩))
    · exact .inr (.inr (.inl ⟨quiet_iff.mpr hq, hs, ho, (raise_next.mp hr).2⟩))

end Sys2Proof.Claim

/-! PROOFS. Reset, invariants and the modes (10_state.md, 60_exceptions.md sections 5 and 7): what every step keeps, each
from `step_inversion` and, for the instruction, `exec_ends`. -/

namespace Sys2Proof.Claim

open Sys2Proof.Machine

variable {s t : State}

/-! The invariant. -/

/-- A word has no bit outside a mask, bit by bit. -/
theorem and_not_eq_zero_iff (v m : DWord) :
    v &&& ~~~m = 0#32 ↔ ∀ i, m.getLsbD i = false → v.getLsbD i = false := by
  constructor
  · intro h i hm
    by_cases hi : i < 32
    · have hbit := congrArg (·.getLsbD i) h
      simpa only [BitVec.getLsbD_and, BitVec.getLsbD_not, hi, hm, decide_true, Bool.not_false, Bool.and_true,
        BitVec.getLsbD_zero] using hbit
    · exact BitVec.getLsbD_of_ge _ _ (Nat.le_of_not_lt hi)
  · intro h
    apply BitVec.eq_of_getLsbD_eq
    intro i hi
    rw [BitVec.getLsbD_and, BitVec.getLsbD_not, BitVec.getLsbD_zero]
    cases hm : m.getLsbD i
    · simp only [h i hm, Bool.false_and]
    · simp only [Bool.not_true, Bool.and_false]

/-- The bits of SR without a name are 0, bit by bit (R41). -/
theorem srReservedZero_iff :
    s.srReservedZero = true ↔ ∀ i, srNamedBits.getLsbD i = false → s.sr.getLsbD i = false := by
  rw [State.srReservedZero, beq_iff_eq, and_not_eq_zero_iff]

/-- The reserved bits of `RESET_SR` are 0 (R471), so those of SR after reset are. -/
theorem inv_resetWith {c : Config} (hc : c.wf = true) : (State.resetWith c).Inv where
  mem := rfl
  stale := rfl
  sr hm := by
    have hr : c.resetSr &&& ~~~c.srWriteMask = 0#32 := by
      simp only [Config.wf, Bool.and_eq_true, beq_iff_eq] at hc
      tauto
    rw [srReservedZero_iff]
    exact fun i hi => (and_not_eq_zero_iff _ _).mp hr i ((and_not_eq_zero_iff _ _).mp hm i hi)
  slot h := by cases h
  asleep _ := rfl

/-- Settles O12: the suggested parameter set is a well-formed one. -/
theorem invariantHoldsAtReset : Obligations.InvariantHoldsAtReset :=
  ⟨fun _ hc => inv_resetWith hc, inv_resetWith (by decide)⟩

/-- Settles O11: every field of the reset state is its definition's. -/
theorem resetLeavesTheStatedValues : Obligations.ResetLeavesTheStatedValues :=
  ⟨fun _ => ⟨rfl, rfl, rfl, rfl, rfl, rfl, rfl, rfl, rfl⟩, rfl, rfl, rfl⟩

/-- Using up the boundary's input keeps the invariant. -/
theorem inv_afterBoundary (h : s.Inv) : (afterBoundary s).Inv := ⟨h.mem, h.stale, h.sr, h.slot, h.asleep⟩

/-- Trap entry keeps the invariant: it sets three bits of SR that have a name, and the core is awake out of a slot. -/
theorem inv_enterTrap (h : s.Inv) (c : Cause) (saved off : DWord) : (s.enterTrap c saved off).Inv where
  mem := h.mem
  stale := h.stale
  sr hm := by
    rw [srReservedZero_iff]
    intro i hi
    have hb : i ≠ 28 ∧ i ≠ 29 ∧ i ≠ 30 := by
      refine ⟨?_, ?_, ?_⟩ <;> (rintro rfl; revert hi; decide)
    have hs := srReservedZero_iff.mp (h.sr hm) i hi
    simp [trapSr, getLsbD_setBit, hb, hs]
  slot h := by cases h
  asleep _ := rfl

/-- An instruction that ends in its ordinary way keeps the invariant, where the core is awake and pc even. -/
theorem inv_ordinary (h : s.Inv) (he : s.pc.getLsbD 0 = false) (hs : s.sleeping = false) (ho : Ordinary s t) :
    t.Inv where
  mem := ho.mem h.mem
  stale := ho.stale h.stale
  sr hm := by
    rw [ho.cfg] at hm
    rw [srReservedZero_iff]
    intro i hi
    rcases ho.sr with hk | ⟨_, v, hv⟩
    · have hb : i ≠ 0 ∧ i ≠ 1 ∧ i ≠ 8 ∧ i ≠ 9 := by
        refine ⟨?_, ?_, ?_, ?_⟩ <;> (rintro rfl; revert hi; decide)
      obtain ⟨h0, h1, h8, h9⟩ := hb
      rw [hk i h0 h1 h8 h9]
      exact srReservedZero_iff.mp (h.sr hm) i hi
    · have hbit := (and_not_eq_zero_iff _ _).mp hm i hi
      rw [hv, BitVec.getLsbD_and, hbit, Bool.and_false]
  slot hin := by
    have hd : t.delayTarget ≠ none := by simpa [State.inSlot, Option.isSome_iff_ne_none] using hin
    rw [ho.branch hd]
    rw [even_iff] at he ⊢
    rw [BitVec.toNat_add, show (2 : DWord).toNat = 2 from rfl]
    omega
  asleep ht := by
    rcases ho.asleep with ha | ha
    · rw [ha, hs] at ht; cases ht
    · exact inSlot_none t ha

theorem inv_fetched (h : s.Inv) : (fetched s).Inv := by
  obtain ⟨_, _, he⟩ := fetched_eq_with s
  rw [he]
  exact ⟨h.mem, h.stale, h.sr, h.slot, h.asleep⟩

/-- Settles O13, by the four ways of a step. -/
theorem stepKeepsInvariant : Obligations.StepKeepsInvariant := by
  intro s t hi h
  rcases step_inversion h with ⟨l, _, _, rfl⟩ | ⟨_, _, rfl⟩ | ⟨_, _, _, rfl⟩ | ⟨_, hs, he, hr⟩
  · exact inv_enterTrap (inv_afterBoundary hi) _ _ _
  · exact inv_afterBoundary hi
  · exact inv_enterTrap (inv_afterBoundary hi) _ _ _
  · rcases runWord_ends hr with ⟨c, saved, _, rfl, _⟩ | ho
    · exact inv_enterTrap (inv_fetched hi) _ _ _
    · exact inv_ordinary (inv_fetched hi) (by simpa using he) (by simpa using hs) ho

/-- Settles O14, by the four ways of a step. -/
theorem parametersNeverChange : Obligations.ParametersNeverChange := by
  intro s t h
  rcases step_inversion h with ⟨l, _, _, rfl⟩ | ⟨_, _, rfl⟩ | ⟨_, _, _, rfl⟩ | ⟨_, _, _, hr⟩
  · exact ⟨rfl, rfl⟩
  · exact ⟨rfl, rfl⟩
  · exact ⟨rfl, rfl⟩
  · rcases runWord_ends hr with ⟨c, saved, _, rfl, _⟩ | ho
    · exact ⟨fetched_cfg s, fetched_irqs s⟩
    · exact ⟨ho.cfg.trans (fetched_cfg s), ho.irqs.trans (fetched_irqs s)⟩

/-! The modes. -/

/-- Trap entry is in supervisor mode (R430). -/
theorem md_enterTrap (s : State) (c : Cause) (saved off : DWord) :
    (s.enterTrap c saved off).sr.getLsbD 30 = true := (entered_enterTrap s c saved off).md

/-- User mode with the privilege check on is without privilege (R164). -/
theorem privOk_of_user (hp : s.cfg.privCheck = true) (hm : s.sr.getLsbD 30 = false) : s.privOk = false := by
  rw [privOk_eq, priv, hm, hp]
  rfl

/-- Without privilege an instruction that ends in its ordinary way leaves SR alone but for T, S, Q and M. -/
theorem ordinary_sr_of_user (ho : Ordinary s t) (hp : s.privOk = false) :
    ∀ i, i ≠ 0 → i ≠ 1 → i ≠ 8 → i ≠ 9 → t.sr.getLsbD i = s.sr.getLsbD i := by
  rcases ho.sr with hk | ⟨hp', _⟩
  · exact hk
  · rw [hp] at hp'; cases hp'

/-- Settles O16: of the four ways of a step, a step that stays in user mode took no exception, so the core slept on or
an instruction ended in its ordinary way without privilege. -/
theorem userModeChangesNoPrivilegedState : Obligations.UserModeChangesNoPrivilegedState := by
  intro s t hp hm h ht
  have hu := privOk_of_user hp hm
  rcases step_inversion h with ⟨l, _, _, rfl⟩ | ⟨_, _, rfl⟩ | ⟨_, _, _, rfl⟩ | ⟨_, _, _, hr⟩
  · rw [md_enterTrap] at ht; cases ht
  · exact ⟨rfl, rfl, rfl, rfl, rfl, rfl, rfl, fun _ _ _ _ _ => rfl, fun _ _ => rfl⟩
  · rw [md_enterTrap] at ht; cases ht
  · rcases runWord_ends hr with ⟨c, saved, _, rfl, _⟩ | ho
    · rw [md_enterTrap] at ht; cases ht
    · have hu' : (fetched s).privOk = false := by simpa using hu
      obtain ⟨hvbr, hssr, hspc, hsgr, hdbr, hsleep⟩ := ho.kept hu'
      have hsr := ordinary_sr_of_user ho hu'
      have hbank := ho.bankB hu'
      have hcause := ho.lastCause
      simp only [fetched_vbr, fetched_ssr, fetched_spc, fetched_sgr, fetched_dbr, fetched_sleeping, fetched_sr,
        fetched_bankBMapped, fetched_readPhys, fetched_lastCause] at hvbr hssr hspc hsgr hdbr hsleep hsr hbank hcause
      exact ⟨hvbr, hssr, hspc, hsgr, hdbr, hsleep, hcause, hsr, hbank⟩

/-- The address that an instruction saves is the one R433 gives the kind. -/
theorem savedFor_of_raised {c : Cause} {x : DWord} (he : s.pc.getLsbD 0 = false) (hr : Raised (fetched s) c x) :
    savedFor s c = x := by
  cases c with
  | interrupt l => exact hr.elim
  | trapa j | breakpoint | illegalInstruction w | slotIllegalInstruction w => simpa [savedFor] using hr.2.symm
  | addressErrorRead a | addressErrorWrite a =>
    have hr' : x = (fetched s).faultPc := hr
    rw [hr', fetched_faultPc, faultPc_eq]
    have hp : s.pc[0] = false := he
    simp [savedFor, savedPc, hp]

/-- What R433 and R441 ask of the kind that a step takes. -/
def KindFits (s : State) : Cause → Prop
  | .interrupt l => s.irqs.head? = some (some l) ∧ Accepts s l
  | .trapa _ | .breakpoint | .illegalInstruction _ => s.delayTarget = none
  | .slotIllegalInstruction _ => s.delayTarget.isSome = true
  | .addressErrorRead _ | .addressErrorWrite _ => True

/-- An instruction raises a kind only where it fits (R433). -/
theorem kindFits_of_raised {c : Cause} {x : DWord} (hr : Raised (fetched s) c x) : KindFits s c := by
  cases c with
  | interrupt l => exact hr.elim
  | trapa j | breakpoint | illegalInstruction w => simpa [KindFits, State.inSlot] using hr.1
  | slotIllegalInstruction w => simpa [KindFits, State.inSlot] using hr.1
  | addressErrorRead a | addressErrorWrite a => trivial

/-- Every exception a step takes is the whole trap sequence of a kind that fits, or the step took none. -/
theorem step_takes (h : step s = .next t) :
    (∃ c, Entered (foundBy s c) c (savedFor s c) (offsetFor s c) t ∧ KindFits s c) ∨
    t = afterBoundary s ∨ (s.pc.getLsbD 0 = false ∧ s.sleeping = false ∧ Ordinary (fetched s) t) := by
  rcases step_inversion h with ⟨l, hl, ha, rfl⟩ | ⟨_, _, rfl⟩ | ⟨_, _, ho, rfl⟩ | ⟨_, hs, he, hr⟩
  · exact .inl ⟨.interrupt l, entered_enterTrap _ _ _ _, hl, ha⟩
  · exact .inr (.inl rfl)
  · refine .inl ⟨.addressErrorRead s.pc, ?_, trivial⟩
    have hp : s.pc[0] = true := ho
    simp only [foundBy, fetched_of_odd ho, savedFor, offsetFor, ho, or_true, if_true]
    exact entered_enterTrap _ _ _ _
  · rcases runWord_ends hr with ⟨c, saved, _, rfl, hc⟩ | ho
    · refine .inl ⟨c, ?_, kindFits_of_raised hc⟩
      have hf : foundBy s c = fetched s ∧ offsetFor s c = s.cfg.vecGeneral := by
        cases c with
        | interrupt l => exact hc.elim
        | _ => exact ⟨rfl, rfl⟩
      rw [hf.1, hf.2, savedFor_of_raised he hc, fetched_cfg]
      exact entered_enterTrap _ _ _ _
    · exact .inr (.inr ⟨he, hs, ho⟩)

/-- Settles O17: a step that took no exception leaves SR.MD alone without privilege. -/
theorem supervisorModeIsEnteredOnlyByTrap : Obligations.SupervisorModeIsEnteredOnlyByTrap := by
  intro s t hp hm h ht
  rcases step_takes h with ⟨c, hc, hk⟩ | rfl | ⟨_, _, ho⟩
  · exact ⟨c, hc, by cases c <;> exact hk⟩
  · exact absurd (ht.symm.trans hm) (by decide)
  · have hu : (fetched s).privOk = false := by simpa using privOk_of_user hp hm
    have hsr := ordinary_sr_of_user ho hu 30 (by decide) (by decide) (by decide) (by decide)
    rw [fetched_sr, ht, hm] at hsr
    cases hsr

/-- A fault in a delay slot saves the address of the branch (R433). -/
theorem raised_saved_of_slot {c : Cause} {x : DWord} (hd : s.inSlot = true) (hr : Raised s c x) : x = s.pc - 2 := by
  have hf : s.faultPc = s.pc - 2 := by simp [State.faultPc, hd]
  cases c with
  | interrupt l => exact hr.elim
  | trapa j | breakpoint | illegalInstruction w => exact absurd (hr.1.symm.trans hd) (by decide)
  | slotIllegalInstruction w => exact hr.2
  | addressErrorRead a | addressErrorWrite a => exact Eq.trans hr hf

/-- Settles O18: between a branch and its slot no interrupt is accepted, so the step is the instruction's. -/
theorem delaySlotCompletesTheBranch : Obligations.DelaySlotCompletesTheBranch := by
  intro s t target hd hs he h
  rcases step_inversion h with ⟨l, _, ha, _⟩ | ⟨_, hs', _⟩ | ⟨_, _, ho, _⟩ | ⟨_, _, _, hr⟩
  · exact absurd (hd.symm.trans ha.1) (by simp)
  · rw [hs] at hs'; cases hs'
  · rw [he] at ho; cases ho
  · rcases runWord_ends hr with ⟨c, saved, _, rfl, hc⟩ | ho
    · have hx : saved = s.pc - 2 := by simpa using raised_saved_of_slot (by simp [State.inSlot, hd]) hc
      subst hx
      exact .inr ⟨c, by simpa using entered_enterTrap (fetched s) c (s.pc - 2) (fetched s).cfg.vecGeneral⟩
    · exact .inl (ho.slot target (by simpa using hd))

end Sys2Proof.Claim

/-! PROOFS. The boundary and the fetch (60_exceptions.md section 5, 20_memory.md sections 3, 4 and 6): interrupts, sleep,
the exceptions and refusals of a fetch, and the placing of a word. -/

namespace Sys2Proof.Claim

open Sys2Proof.Machine

variable {s t : State}

/-! Interrupts and sleep. -/

/-- Settles O8. The accepted request is the trap sequence of R430. -/
theorem interruptIsAccepted : Obligations.InterruptIsAccepted := fun _ _ hr ha =>
  ⟨_, step_of_accepts hr ha, entered_enterTrap _ _ _ _⟩

/-- Steps from two quiet boundaries are equal where the states with the input used up are. -/
theorem step_congr_of_quiet {u : State} (hs : Quiet s) (hu : Quiet u) (h : afterBoundary s = afterBoundary u) :
    step s = step u := by
  unfold step
  simp only [boundary_of_quiet hs, boundary_of_quiet hu]
  rw [show s.consumeIrq = u.consumeIrq from h]

/-- Settles O9: a request held off leaves a quiet boundary, and nothing of it is kept. -/
theorem heldOffInterruptHasNoEffect : Obligations.HeldOffInterruptHasNoEffect := by
  intro s l rest hi hn
  refine step_congr_of_quiet (fun l' hl' => ?_) (fun l' hl' => ?_) (by simp [afterBoundary, hi])
  · simp only [hi, List.head?_cons, Option.some.injEq] at hl'
    exact hl' ▸ hn
  · simp at hl'

/-- What keeps a sleeping core from ever waking (R412). -/
theorem not_willWake (h : s.sr.getLsbD 28 = true ∨ s.sr.toNat / 16 % 16 = 15 ∨ s.irqs = []) : ¬WillWake s := by
  rintro ⟨l, hl, _, hbl, him⟩
  rcases h with h | h | h
  · exact absurd (h.symm.trans hbl) (by decide)
  · have := l.isLt
    omega
  · rw [h] at hl; cases hl

/-- A core asleep for good is at an end of its run, whatever address the run was to reach (R15). -/
theorem runTo_of_asleepForGood (hs : s.sleeping = true) (hw : ¬WillWake s) (stop : DWord) (n : Nat) :
    runTo stop n s = .ended s := by
  refine runTo_of_ended ?_
  simp [State.ended, State.asleepForGood, hs, mt canWake_iff.mp hw]

/-- Settles O10, by whether a request to come can wake the core. -/
theorem sleepingCoreIdlesOrIsStuck : Obligations.SleepingCoreIdlesOrIsStuck := fun _ hs hq =>
  ⟨step_of_asleep hq hs, fun hw => ⟨step_of_asleepForGood hs hw, runTo_of_asleepForGood hs hw⟩,
    fun h => step_of_asleepForGood hs (not_willWake h)⟩

/-! The instruction of a fetching step, and the exceptions of a fetch. -/

/-- Settles O5: the word a fetching step reads, decoded. -/
theorem stepRunsDecodedInstruction : Obligations.StepRunsDecodedInstruction := fun _ _ _ hf hd => by
  rw [hf.step_eq, runWord_of_ok hd]

@[simp] theorem fetched_illegalCause (s : State) (w : Word) : illegalCause (fetched s) w = illegalCause s w := by
  simp [illegalCause]

@[simp] theorem fetched_savedPc (s : State) : savedPc (fetched s) = savedPc s := by simp [savedPc]

/-- A step that reaches an odd pc raises the address error of that pc, with that pc saved (R76, R433). -/
theorem step_of_odd (hq : Quiet s) (hs : s.sleeping = false) (ho : s.pc.getLsbD 0 = true) :
    step s = raise (.addressErrorRead s.pc) s.pc (afterBoundary s) := by
  rw [step_of_awake hq hs]
  exact withFetch_of_odd (s := afterBoundary s) ho

/-- Settles O7: the two exceptions raised at the fetch, each as the trap sequence. -/
theorem fetchRaisesIllegalOrAddressError : Obligations.FetchRaisesIllegalOrAddressError := by
  refine ⟨fun s w e hf hd hb => ?_, fun s hq hs ho hb => ?_⟩
  · rw [hf.step_eq, runWord_of_error hd]
    simpa using raiseIllegal_entered (fetched s) w (by simpa using hb)
  · rw [step_of_odd hq hs ho]
    exact raise_entered (afterBoundary s) _ _ hb

/-! What a refused access is refused for (R79). -/

/-- The first byte that no region holds is the reason (R79). -/
theorem accessRefusal_of_unmapped {n : Width} {a : DWord} {k : Nat} (ha : a.toNat % n.bytes = 0) (hk : k < n.bytes)
    (hbefore : ∀ j, j < k → s.cfg.kindAt (a.toNat + j) ≠ none) (hnone : s.cfg.kindAt (a.toNat + k) = none) :
    s.accessRefusal n a = some (.unmappedAccess (a + BitVec.ofNat 32 k)) := by
  have hbyte : ∀ j, j < n.bytes → (s.byteRefusal (a + BitVec.ofNat 32 j) = none ↔ s.cfg.kindAt (a.toNat + j) ≠ none) := by
    intro j hj
    unfold State.byteRefusal
    rw [toNat_add_of_aligned n a j ha hj]
    cases s.cfg.kindAt (a.toNat + j) <;> simp
  have hlast : s.byteRefusal (a + BitVec.ofNat 32 k) = some (.unmappedAccess (a + BitVec.ofNat 32 k)) := by
    unfold State.byteRefusal
    rw [toNat_add_of_aligned n a k ha hk, hnone]
  have hfirst : (List.range k).findSome? (fun j => s.byteRefusal (a + BitVec.ofNat 32 j)) = none := by
    rw [List.findSome?_eq_none_iff]
    intro j hj
    have hj' : j < k := List.mem_range.mp hj
    exact (hbyte j (by omega)).mpr (hbefore j hj')
  obtain ⟨m, hm⟩ : ∃ m, n.bytes = k + 1 + m := ⟨n.bytes - (k + 1), by omega⟩
  unfold State.accessRefusal
  rw [hm, List.range_add, List.range_succ, List.findSome?_append, List.findSome?_append, hfirst]
  simp [hlast]

/-- Where every byte lies in a region, the access is refused exactly when the bytes are not of one kind (R79). -/
theorem accessRefusal_of_mapped {n : Width} {a : DWord} (ha : a.toNat % n.bytes = 0)
    (hall : ∀ j, j < n.bytes → s.cfg.kindAt (a.toNat + j) ≠ none) :
    s.accessRefusal n a = if s.oneKind n a then none else some (.straddlingAccess a) := by
  have hnone : (List.range n.bytes).findSome? (fun j => s.byteRefusal (a + BitVec.ofNat 32 j)) = none := by
    rw [List.findSome?_eq_none_iff]
    intro j hj
    have hj' : j < n.bytes := List.mem_range.mp hj
    unfold State.byteRefusal
    rw [toNat_add_of_aligned n a j ha hj']
    have := hall j hj'
    cases hc : s.cfg.kindAt (a.toNat + j) <;> simp_all
  unfold State.accessRefusal
  rw [hnone]

/-- The bytes of an aligned access are of one kind (R79). -/
theorem oneKind_iff {n : Width} {a : DWord} (ha : a.toNat % n.bytes = 0) :
    s.oneKind n a = true ↔ ∀ k, k < n.bytes → s.cfg.kindAt (a.toNat + k) = s.cfg.kindAt a.toNat := by
  simp only [State.oneKind, List.all_eq_true, List.mem_range, beq_iff_eq]
  exact forall_congr' fun k => imp_congr_ctx Iff.rfl fun hk => by rw [toNat_add_of_aligned n a k ha hk]

/-- An access that memory and a device share is refused as shared (R79). -/
theorem accessRefusal_of_shared {n : Width} {a : DWord} {k : Nat} (ha : a.toNat % n.bytes = 0) (hk : k < n.bytes)
    (hall : ∀ j, j < n.bytes → s.cfg.kindAt (a.toNat + j) ≠ none)
    (hne : s.cfg.kindAt (a.toNat + k) ≠ s.cfg.kindAt a.toNat) :
    s.accessRefusal n a = some (.straddlingAccess a) := by
  rw [accessRefusal_of_mapped ha hall, if_neg]
  exact fun h => hne ((oneKind_iff ha).mp h k hk)

/-- The two reasons for which an aligned access is refused (R79). -/
theorem accessRefusal_eq_some {n : Width} {a : DWord} {r : Refusal} (ha : aligned n a = true)
    (h : s.accessRefusal n a = some r) :
    (∃ b : DWord, r = .unmappedAccess b ∧ s.cfg.kindAt b.toNat = none) ∨
    ∃ (b : DWord) (k : Nat), r = .straddlingAccess b ∧ k < 4 ∧ s.cfg.kindAt (b.toNat + k) ≠ s.cfg.kindAt b.toNat := by
  rw [aligned_iff] at ha
  have h4 : n.bytes ≤ 4 := by cases n <;> decide
  by_cases hall : ∀ j, j < n.bytes → s.cfg.kindAt (a.toNat + j) ≠ none
  · rw [accessRefusal_of_mapped ha hall] at h
    split at h
    · cases h
    · rename_i hk
      simp only [oneKind_iff ha, not_forall] at hk
      obtain ⟨k, hk, hne⟩ := hk
      exact .inr ⟨a, k, (Option.some.inj h).symm, by omega, hne⟩
  · unfold State.accessRefusal at h
    split at h
    · rename_i r' hr'
      obtain ⟨j, _, hj⟩ := List.exists_of_findSome?_eq_some hr'
      unfold State.byteRefusal at hj
      split at hj
      · cases hj
      · rename_i hnone
        rw [← Option.some.inj h, ← Option.some.inj hj]
        exact .inl ⟨_, rfl, hnone⟩
    · rename_i hnone
      refine absurd (fun j hj => ?_) hall
      have := List.findSome?_eq_none_iff.mp hnone j (List.mem_range.mpr hj)
      unfold State.byteRefusal at this
      rw [toNat_add_of_aligned n a j ha hj] at this
      intro hc
      simp [hc] at this

/-! What a step stops for. -/

/-- The result of a step from a quiet boundary, awake at an even pc (R76, R79, R86). -/
theorem step_of_even (hq : Quiet s) (hs : s.sleeping = false) (he : s.pc.getLsbD 0 = false) :
    (∃ r, s.accessRefusal .word s.pc = some r ∧ step s = .refused r) ∨
    (s.pc.toNat ∈ s.icacheStale ∧ step s = .refused (.staleFetch s.pc)) ∨
    step s = runWord exec (wordAt s) (fetched s) := by
  rw [step_of_awake hq hs]
  cases hr : s.accessRefusal .word s.pc with
  | some r =>
    refine .inl ⟨r, rfl, ?_⟩
    have hr' : (afterBoundary s).accessRefusal .word (afterBoundary s).pc = some r := hr
    have he' : (afterBoundary s).pc.getLsbD 0 = false := he
    unfold withFetch
    rw [he', hr']
    rfl
  | none =>
    have ha : Answered s 2 s.pc :=
      (answered_iff s .word s.pc).mpr ⟨(aligned_iff .word s.pc).mpr ((even_iff s.pc).mp he), hr⟩
    by_cases hf : s.pc.toNat ∈ s.icacheStale
    · exact .inr (.inl ⟨hf, withFetch_of_stale (s := afterBoundary s) ha hf⟩)
    · rw [fetched_of_even he]
      exact .inr (.inr (withFetch_of_fresh (s := afterBoundary s) ha hf))

/-- What follows the fetch stops as an instruction does (R435, R79). -/
theorem runWord_stops (w : Word) : StopsFor s (runWord exec w s) := by
  cases hd : decode w with
  | ok i => rw [runWord_of_ok hd]; exact exec_stops i
  | error e => rw [runWord_of_error hd]; exact stops_illegal w

/-- The result of every step: a next state; a sleep that cannot end; or, awake at a quiet boundary, the exception of an
odd pc, a refused fetch, or what the instruction answers (R441). -/
theorem step_results (s : State) :
    (∃ t, step s = .next t) ∨
    (s.sleeping = true ∧ ¬WillWake s ∧ step s = .fault .endlessSleep) ∨
    (s.pc.getLsbD 0 = true ∧ step s = raise (.addressErrorRead s.pc) s.pc (afterBoundary s)) ∨
    (∃ r, aligned .word s.pc = true ∧ s.accessRefusal .word s.pc = some r ∧ step s = .refused r) ∨
    (s.pc.toNat ∈ s.icacheStale ∧ step s = .refused (.staleFetch s.pc)) ∨
    step s = runWord exec (wordAt s) (fetched s) := by
  by_cases hq : Quiet s
  · cases hs : s.sleeping
    · cases he : s.pc.getLsbD 0
      · rcases step_of_even hq hs he with ⟨r, hr, h⟩ | h | h
        · exact .inr (.inr (.inr (.inl ⟨r, (aligned_iff .word _).mpr ((even_iff s.pc).mp he), hr, h⟩)))
        · exact .inr (.inr (.inr (.inr (.inl h))))
        · exact .inr (.inr (.inr (.inr (.inr h))))
      · exact .inr (.inr (.inl ⟨rfl, step_of_odd hq hs he⟩))
    · by_cases hw : WillWake s
      · exact .inl ⟨_, step_of_asleep hq hs hw⟩
      · exact .inr (.inl ⟨rfl, hw, step_of_asleepForGood hs hw⟩)
  · simp only [Quiet, not_forall, not_not] at hq
    obtain ⟨l, hl, ha⟩ := hq
    exact .inl ⟨_, step_of_accepts hl ha⟩

/-- A step faults for an exception while SR.BL = 1 or in a sleep that cannot end (R435, R412). -/
theorem step_fault {r : Fault} (h : step s = .fault r) :
    (s.sr.getLsbD 28 = true ∧ ∃ c, r = .exceptionWhileBlocked c) ∨
    (s.sleeping = true ∧ ¬WillWake s ∧ r = .endlessSleep) := by
  rcases step_results s with ⟨t, ht⟩ | ⟨hs, hw, ht⟩ | ⟨_, ht⟩ | ⟨r', _, _, ht⟩ | ⟨_, ht⟩ | ht <;> rw [h] at ht
  · cases ht
  · exact .inr ⟨hs, hw, by cases ht; rfl⟩
  · have hstops : StopsFor (afterBoundary s) (.fault r) := ht ▸ stops_raise (s := afterBoundary s) _ _
    exact .inl hstops
  · cases ht
  · cases ht
  · have hstops : StopsFor (fetched s) (.fault r) := ht ▸ runWord_stops _
    exact .inl ⟨(fetched_bl s).symm.trans hstops.1, hstops.2⟩

/-- Settles O20: a fetch is refused for its bytes or its unit, an instruction for the bytes of its access. -/
theorem refusalsHaveThreeReasons : Obligations.RefusalsHaveThreeReasons := by
  refine ⟨fun s r h => ?_, fun s hq hs ha hf => ?_⟩
  · rcases step_results s with ⟨t, ht⟩ | ⟨_, _, ht⟩ | ⟨_, ht⟩ | ⟨r', ha, hr, ht⟩ | ⟨hf, ht⟩ | ht <;> rw [h] at ht
    · cases ht
    · cases ht
    · have hstops : StopsFor (afterBoundary s) (.refused r) := ht ▸ stops_raise (s := afterBoundary s) _ _
      obtain ⟨n, a, ha, hr⟩ := hstops
      exact .inr (accessRefusal_eq_some (s := s) ha hr)
    · cases ht
      exact .inr (accessRefusal_eq_some ha hr)
    · cases ht
      exact .inl ⟨rfl, hf⟩
    · have hstops : StopsFor (fetched s) (.refused r) := ht ▸ runWord_stops _
      obtain ⟨n, a, ha, hr⟩ := hstops
      have := accessRefusal_eq_some ha hr
      rw [fetched_cfg] at this
      exact .inr this
  · rw [step_of_awake hq hs]
    exact withFetch_of_stale (s := afterBoundary s) ha hf

/-! The placing of a word (log 37, log 43). -/

/-- The address whose low bit is cleared is even. -/
theorem even_clearLowBit (a : DWord) : (a &&& 0xFFFFFFFE#32).toNat % 2 = 0 := (unitOf_even a).1

/-- A region added in front of `MEM_MAP` holds its own addresses (log 40). -/
theorem kindAt_cons_of_mem {c : Config} {r : Region} {x : Nat} (h : r.base ≤ x ∧ x < r.base + r.size) :
    ({ c with memMap := r :: c.memMap } : Config).kindAt x = some r.kind := by
  simp [Config.kindAt, h]

/-- After `mapWord` the two bytes are memory (log 43). -/
theorem kindAt_mapWord {a : DWord} (ha : a.toNat % 2 = 0) {k : Nat} (hk : k < 2) :
    (s.mapWord a).cfg.kindAt (a.toNat + k) = some .memory := by
  unfold State.mapWord
  split
  · rename_i h
    obtain ⟨hr, hd⟩ := h
    obtain ⟨_, kind, hkind⟩ := (answered_iff s .word a).mpr ⟨(aligned_iff .word a).mpr ha, hr⟩
    rw [hkind k hk]
    have h0 := hkind 0 (by decide)
    have hnd : s.cfg.kindAt a.toNat ≠ some .device := fun h => by
      rw [(atDevice_iff s a).mpr h] at hd; cases hd
    cases kind
    · rfl
    · exact absurd h0 hnd
  · exact kindAt_cons_of_mem (r := { base := a.toNat, size := 2, kind := .memory }) (by dsimp only; omega)

/-- The word written at an even address of memory is the word read there (R72, R73). -/
theorem fetchWord_of_written {u : State} {a : DWord} {w : Word} (hd : u.atDevice a = false) (hpc : u.pc = a)
    (hw : ∀ k, k < 2 → u.laneAt .word a k = (w.setWidth 32).extractLsb' (8 * k) 8) : u.fetchWord = w := by
  simp only [State.fetchWord, State.loadValue, hpc, hd, Bool.false_eq_true, if_false, State.readMem,
    hw 0 (by decide), hw 1 (by decide)]
  apply BitVec.eq_of_toNat_eq
  have := w.isLt
  simp only [BitVec.toNat_setWidth, toNat_append_byte, BitVec.extractLsb'_toNat, Nat.shiftRight_eq_div_pow]
  omega

/-- Placing makes pc even. -/
theorem placeWord_pc (w : Word) : (s.placeWord w).pc = s.pc &&& 0xFFFFFFFE#32 := rfl

/-- The placed word is in memory, so it is answered there (R79). -/
theorem kindAt_placeWord (w : Word) {k : Nat} (hk : k < 2) :
    (s.placeWord w).cfg.kindAt ((s.pc &&& 0xFFFFFFFE#32).toNat + k) = some .memory := by
  have hc : (s.placeWord w).cfg = (s.mapWord (s.pc &&& 0xFFFFFFFE#32)).cfg := by simp [State.placeWord]
  rw [hc]
  exact kindAt_mapWord (even_clearLowBit s.pc) hk

/-- No device answers at the placed word. -/
theorem atDevice_placeWord (w : Word) : (s.placeWord w).atDevice (s.pc &&& 0xFFFFFFFE#32) = false := by
  rw [Bool.eq_false_iff]
  intro h
  have h0 := kindAt_placeWord (s := s) w (k := 0) (by decide)
  rw [Nat.add_zero, (atDevice_iff _ _).mp h] at h0
  cases h0

/-- Each byte of the placed word lies where it is read (R73). -/
theorem laneAt_placeWord (w : Word) {k : Nat} (hk : k < 2) :
    (s.placeWord w).laneAt .word (s.pc &&& 0xFFFFFFFE#32) k = (w.setWidth 32).extractLsb' (8 * k) 8 := by
  have hc : (s.placeWord w).cfg = (s.mapWord (s.pc &&& 0xFFFFFFFE#32)).cfg := by simp [State.placeWord]
  have hd : (s.mapWord (s.pc &&& 0xFFFFFFFE#32)).atDevice (s.pc &&& 0xFFFFFFFE#32) = false := by
    have := atDevice_placeWord (s := s) w
    rwa [State.atDevice, hc] at this
  rw [← laneAt_writeMem (s.mapWord (s.pc &&& 0xFFFFFFFE#32)) .word _ (w.setWidth 32) k hd hk]
  simp [State.writeMem, hd, State.laneAt, State.placeWord, State.byteAt]

/-- A placed word is what the next step fetches (log 37, log 43). -/
theorem step_placeWord (w : Word) :
    step (s.placeWord w) = runWord exec w (afterBoundary (s.placeWord w)) := by
  have hq : Quiet (s.placeWord w) := by
    intro l hl
    simp only [State.placeWord] at hl
    split at hl <;> simp at hl
  have ha : Answered (s.placeWord w) 2 (s.placeWord w).pc :=
    ⟨even_clearLowBit s.pc, .memory, fun k hk => kindAt_placeWord w hk⟩
  have hf : (s.placeWord w).pc.toNat ∉ (s.placeWord w).icacheStale := by
    simp [State.placeWord]
  have hw : wordAt (s.placeWord w) = w := by
    rw [← fetchWord_eq]
    exact fetchWord_of_written (atDevice_placeWord w) rfl fun k hk => laneAt_placeWord w hk
  have hl : (afterBoundary (s.placeWord w)).afterLoad .word (s.placeWord w).pc = afterBoundary (s.placeWord w) := by
    have hd : (afterBoundary (s.placeWord w)).atDevice (s.placeWord w).pc = false := atDevice_placeWord w
    simp [State.afterLoad, hd]
  rw [step_of_awake hq rfl]
  refine (withFetch_of_fresh (s := afterBoundary (s.placeWord w)) ha hf).trans ?_
  rw [show wordAt (afterBoundary (s.placeWord w)) = w from hw]
  exact congrArg _ hl

/-- Settles O6: the placed word is fetched, and decodes to the instruction. -/
theorem placedWordIsTheNextInstruction : Obligations.PlacedWordIsTheNextInstruction := fun s _ _ _ hd =>
  (step_placeWord (s := s) _).trans (runWord_of_ok hd)

end Sys2Proof.Claim

/-! PROOFS. What `exec` is, instruction by instruction, in the words of the statements: the checks of R436 against
`legalHere`, the tables of R43 and R44, the addresses of R240, and the data access of each instruction. -/

namespace Sys2Proof.Claim

open Sys2Proof.Machine

variable {s t : State} {i : Instr}

/-! The tables of R44 and R43. -/

/-- The CR table, index by index (R44). -/
theorem ctrlReg_cases (m : CtrlIdx) :
    (m = 0#4 ∧ ctrlReg m = .sr) ∨ (m = 1#4 ∧ ctrlReg m = .gbr) ∨ (m = 2#4 ∧ ctrlReg m = .vbr) ∨
    (m = 3#4 ∧ ctrlReg m = .ssr) ∨ (m = 4#4 ∧ ctrlReg m = .spc) ∨ ((m = 5#4 ∨ m = 6#4) ∧ ctrlReg m = .unnamed) ∨
    (m = 7#4 ∧ ctrlReg m = .pc) ∨
    (m.getLsbD 3 = true ∧ ctrlReg m = .bank (m.extractLsb' 0 3) ∧ m ≠ 0#4 ∧ m ≠ 1#4 ∧ m ≠ 2#4 ∧ m ≠ 3#4 ∧ m ≠ 4#4 ∧ m ≠ 5#4 ∧
      m ≠ 6#4 ∧ m ≠ 7#4) := by
  revert m; decide

/-- The SYS table, index by index (R43). -/
theorem sysReg_cases (m : SysIdx) :
    (m = 0#4 ∧ sysReg m = .mach) ∨ (m = 1#4 ∧ sysReg m = .macl) ∨ (m = 2#4 ∧ sysReg m = .pr) ∨ (m = 3#4 ∧ sysReg m = .sgr) ∨
    (m = 5#4 ∧ sysReg m = .fpul) ∨ (m = 6#4 ∧ sysReg m = .fpscr) ∨ (m = 15#4 ∧ sysReg m = .dbr) ∨
    (sysReg m = .unnamed ∧ (m = 4#4 ∨ 7 ≤ m.toNat ∧ m.toNat ≤ 14) ∧ m ≠ 0#4 ∧ m ≠ 1#4 ∧ m ≠ 2#4 ∧ m ≠ 3#4 ∧ m ≠ 5#4 ∧ m ≠ 6#4 ∧
      m ≠ 15#4) := by
  revert m; decide

/-! The checks of R436 (2) to (4): the guard of each instruction is `legalHere`. -/

theorem legalHere_stc (s : State) (m : CtrlIdx) (n : Reg) : legalHere s (.stc m n) =
    (!(decide (m = 7) && s.delayTarget.isSome) && (!crPrivileged m || priv s) && !(decide (m = 5) || decide (m = 6))) :=
  rfl

theorem legalHere_ldc (s : State) (m : Reg) (o : CtrlIdx) : legalHere s (.ldc m o) =
    (!(decide (o = 0) && s.delayTarget.isSome) && (!crPrivileged o || priv s) &&
      !(decide (o = 5) || decide (o = 6) || decide (o = 7))) := rfl

theorem legalHere_sts (s : State) (m : SysIdx) (n : Reg) : legalHere s (.sts m n) =
    (!(false && s.delayTarget.isSome) && (!(decide (m = 3) || decide (m = 15)) || priv s) &&
      !(decide (m = 4) || (decide (7 ≤ m.toNat) && decide (m.toNat ≤ 14)) ||
        ((decide (m = 5) || decide (m = 6)) && !s.cfg.hasFpuRegs))) := rfl

/-- The check of `STC` and `STC.L` (R160, R201). -/
theorem ctrlReadOk_eq (s : State) (m : CtrlIdx) (n : Reg) : s.ctrlReadOk m = legalHere s (.stc m n) := by
  rcases ctrlReg_cases m with ⟨rfl, h⟩ | ⟨rfl, h⟩ | ⟨rfl, h⟩ | ⟨rfl, h⟩ | ⟨rfl, h⟩ | ⟨rfl | rfl, h⟩ | ⟨rfl, h⟩ |
      ⟨hb, h, _, _, _, _, _, h5, h6, h7⟩
  case inr.inr.inr.inr.inr.inr.inr =>
    have hp : crPrivileged m = true := by simp only [crPrivileged, hb, Bool.or_true]
    simp [State.ctrlReadOk, h, legalHere_stc, privOk_eq, hp, h5, h6, h7]
  all_goals
    simp [State.ctrlReadOk, h, legalHere_stc, crPrivileged, privOk_eq,
      State.inSlot]

/-- The check of `LDC` and `LDC.L` (R161, R201). -/
theorem ctrlWriteOk_eq (s : State) (m : Reg) (o : CtrlIdx) : s.ctrlWriteOk o = legalHere s (.ldc m o) := by
  rcases ctrlReg_cases o with ⟨rfl, h⟩ | ⟨rfl, h⟩ | ⟨rfl, h⟩ | ⟨rfl, h⟩ | ⟨rfl, h⟩ | ⟨rfl | rfl, h⟩ | ⟨rfl, h⟩ |
      ⟨hb, h, h0, _, _, _, _, h5, h6, h7⟩
  case inr.inr.inr.inr.inr.inr.inr =>
    have hp : crPrivileged o = true := by simp only [crPrivileged, hb, Bool.or_true]
    simp [State.ctrlWriteOk, h, legalHere_ldc, privOk_eq, hp, h0, h5, h6, h7]
  all_goals
    simp [State.ctrlWriteOk, h, legalHere_ldc, crPrivileged, privOk_eq,
      State.inSlot]

/-- The check of `STS`, `STS.L`, `LDS` and `LDS.L` (R162, R163). -/
theorem sysOk_eq (s : State) (m : SysIdx) (n : Reg) : s.sysOk m = legalHere s (.sts m n) := by
  rcases sysReg_cases m with ⟨rfl, h⟩ | ⟨rfl, h⟩ | ⟨rfl, h⟩ | ⟨rfl, h⟩ | ⟨rfl, h⟩ | ⟨rfl, h⟩ | ⟨rfl, h⟩ |
      ⟨h, hm, _⟩
  case inr.inr.inr.inr.inr.inr.inr =>
    rcases hm with rfl | ⟨h7, h14⟩
    · simp [State.sysOk, h, legalHere_sts]
    · simp [State.sysOk, h, legalHere_sts, h7, h14]
  all_goals simp [State.sysOk, h, legalHere_sts, privOk_eq]

/-- The check of an instruction that is forbidden in a slot and has no other check (R201). -/
theorem not_inSlot_eq (hf : slotForbidden i = true) (hp : privileged i = false) (hr : reservedIndex s i = false) :
    (!s.inSlot) = legalHere s i := by
  simp [legalHere, hf, hp, hr, State.inSlot]

/-- The check of `RTE` and `SLEEP` (R164, R201). -/
theorem not_inSlot_and_privOk_eq (hf : slotForbidden i = true) (hp : privileged i = true)
    (hr : reservedIndex s i = false) : (!s.inSlot && s.privOk) = legalHere s i := by
  simp [legalHere, hf, hp, hr, State.inSlot, privOk_eq]

/-- An instruction whose check holds does what stands behind it. -/
theorem guardLegal_of_true {ok : Bool} {k : Result} (h : ok = true) : guardLegal ok i s k = k := by
  simp [guardLegal, h]

/-- An instruction whose check fails is illegal where it stands (R424). -/
theorem guardLegal_of_false {ok : Bool} {k : Result} (h : ok = false) :
    guardLegal ok i s k = raiseIllegal (encode i) s := by
  simp [guardLegal, h]

/-- An instruction for which a check of R436 (2) to (4) fails is illegal where it stands, before any access or write
of its own: each guard is `legalHere`, and without a guard no check can fail. -/
theorem exec_of_not_legal (i : Instr) (h : legalHere s i = false) : exec i s = raiseIllegal (encode i) s := by
  cases i
  case stc m n | stcl m n => exact guardLegal_of_false ((ctrlReadOk_eq s m n).trans h)
  case ldc m o | ldcl m o => exact guardLegal_of_false ((ctrlWriteOk_eq s m o).trans h)
  case sts m n | stsl m n => exact guardLegal_of_false ((sysOk_eq s m n).trans h)
  case lds m o | ldsl m o => exact guardLegal_of_false ((sysOk_eq s o m).trans h)
  case rte | sleep => exact guardLegal_of_false ((not_inSlot_and_privOk_eq rfl rfl rfl).trans h)
  case bsrf | braf | rts | rtsN | jsr | jmp | braN | bt | bf | bts | bfs | bra | bsr | trapa | brk | movbStorePc |
      movwStorePc | movlStorePc | movbLoadPc | movwLoadPc | movlLoadPc | leab | movwLoadPcDisp | movlLoadPcDisp | mova =>
    exact guardLegal_of_false ((not_inSlot_eq rfl rfl rfl).trans h)
  case ldtlb | movual | movualDec | jsrN | rtvN => rfl
  all_goals cases h

/-! Displacements and addresses (R113, R240). -/

/-- A scaled 4-bit displacement as a number (R113). -/
theorem disp4_eq (w : Width) (d : BitVec 4) : disp4 w d = BitVec.ofNat 32 (w.bytes * d.toNat) := by
  apply BitVec.eq_of_toNat_eq
  simp [disp4, Width.size, Nat.mul_comm]

/-- A scaled 8-bit displacement as a number (R113). -/
theorem disp8_eq (w : Width) (d : BitVec 8) : disp8 w d = BitVec.ofNat 32 (w.bytes * d.toNat) := by
  apply BitVec.eq_of_toNat_eq
  simp [disp8, Width.size, Nat.mul_comm]

/-- An address with its low two bits cleared, by division (R240). -/
theorem clearLowTwo_eq (a : DWord) : a &&& 0xFFFFFFFC = BitVec.ofNat 32 (a.toNat / 4 * 4) := by
  have h : a &&& 0xFFFFFFFC#32 = a >>> 2 <<< 2 := by
    have key : ∀ k : Fin 32, (0xFFFFFFFC#32).getLsbD k = decide (2 ≤ k.val) := by decide
    apply BitVec.eq_of_getLsbD_eq
    intro k hk
    rw [BitVec.getLsbD_and, key ⟨k, hk⟩]
    by_cases h2 : k < 2
    · simp [h2, hk]
    · simp [h2, hk, Nat.le_of_not_lt h2, show 2 + (k - 2) = k by omega]
  refine h.trans ?_
  apply BitVec.eq_of_toNat_eq
  simp [Nat.shiftLeft_eq, Nat.shiftRight_eq_div_pow]

/-- `@(PC,disp)` of the long form and of `MOVA` (R240, R280, R281). -/
theorem eaPcLong_eq (s : State) (d : BitVec 8) :
    s.eaPcLong d = BitVec.ofNat 32 ((s.pc + 4).toNat / 4 * 4 + 4 * d.toNat) := by
  rw [State.eaPcLong, clearLowTwo_eq, disp8_eq, BitVec.ofNat_add]
  rfl

/-- `@(PC,disp)` as `access` writes it (R240, R281). -/
theorem eaPcLong_eq' (s : State) (d : BitVec 8) :
    s.eaPcLong d = ((s.pc + 4) &&& 0xFFFFFFFC) + BitVec.ofNat 32 (4 * d.toNat) := by
  rw [State.eaPcLong, disp8_eq]
  rfl

/-! The loads and stores with a displacement, at the addresses of the statements (R247, R261, R269 to R279). -/

section Displaced

variable (s : State) (m n : Reg) (d : BitVec 4) (e : BitVec 8)

theorem exec_movbLoadDisp : exec (.movbLoadDisp m d) s = loadTo .byte (s.reg m + BitVec.ofNat 32 d.toNat) 0 s := by
  have h := disp4_eq .byte d
  rw [Width.bytes, Nat.one_mul] at h
  exact congrArg (fun x => loadTo .byte (s.reg m + x) 0 s) h

theorem exec_movwLoadDisp :
    exec (.movwLoadDisp m d) s = loadTo .word (s.reg m + BitVec.ofNat 32 (2 * d.toNat)) 0 s :=
  congrArg (fun x => loadTo .word (s.reg m + x) 0 s) (disp4_eq .word d)

theorem exec_movlLoadDisp :
    exec (.movlLoadDisp m d n) s = loadTo .long (s.reg m + BitVec.ofNat 32 (4 * d.toNat)) n s :=
  congrArg (fun x => loadTo .long (s.reg m + x) n s) (disp4_eq .long d)

theorem exec_movbLoadGbr : exec (.movbLoadGbr e) s = loadTo .byte (s.gbr + BitVec.ofNat 32 e.toNat) 0 s := by
  have h := disp8_eq .byte e
  rw [Width.bytes, Nat.one_mul] at h
  exact congrArg (fun x => loadTo .byte (s.gbr + x) 0 s) h

theorem exec_movwLoadGbr : exec (.movwLoadGbr e) s = loadTo .word (s.gbr + BitVec.ofNat 32 (2 * e.toNat)) 0 s :=
  congrArg (fun x => loadTo .word (s.gbr + x) 0 s) (disp8_eq .word e)

theorem exec_movlLoadGbr : exec (.movlLoadGbr e) s = loadTo .long (s.gbr + BitVec.ofNat 32 (4 * e.toNat)) 0 s :=
  congrArg (fun x => loadTo .long (s.gbr + x) 0 s) (disp8_eq .long e)

theorem exec_movbStoreDisp :
    exec (.movbStoreDisp n d) s = storeAt .byte (s.reg n + BitVec.ofNat 32 d.toNat) (s.reg 0) s := by
  have h := disp4_eq .byte d
  rw [Width.bytes, Nat.one_mul] at h
  exact congrArg (fun x => storeAt .byte (s.reg n + x) (s.reg 0) s) h

theorem exec_movwStoreDisp :
    exec (.movwStoreDisp n d) s = storeAt .word (s.reg n + BitVec.ofNat 32 (2 * d.toNat)) (s.reg 0) s :=
  congrArg (fun x => storeAt .word (s.reg n + x) (s.reg 0) s) (disp4_eq .word d)

theorem exec_movlStoreDisp :
    exec (.movlStoreDisp m n d) s = storeAt .long (s.reg n + BitVec.ofNat 32 (4 * d.toNat)) (s.reg m) s :=
  congrArg (fun x => storeAt .long (s.reg n + x) (s.reg m) s) (disp4_eq .long d)

theorem exec_movbStoreGbr :
    exec (.movbStoreGbr e) s = storeAt .byte (s.gbr + BitVec.ofNat 32 e.toNat) (s.reg 0) s := by
  have h := disp8_eq .byte e
  rw [Width.bytes, Nat.one_mul] at h
  exact congrArg (fun x => storeAt .byte (s.gbr + x) (s.reg 0) s) h

theorem exec_movwStoreGbr :
    exec (.movwStoreGbr e) s = storeAt .word (s.gbr + BitVec.ofNat 32 (2 * e.toNat)) (s.reg 0) s :=
  congrArg (fun x => storeAt .word (s.gbr + x) (s.reg 0) s) (disp8_eq .word e)

theorem exec_movlStoreGbr :
    exec (.movlStoreGbr e) s = storeAt .long (s.gbr + BitVec.ofNat 32 (4 * e.toNat)) (s.reg 0) s :=
  congrArg (fun x => storeAt .long (s.gbr + x) (s.reg 0) s) (disp8_eq .long e)

end Displaced

/-! The PC-relative forms out of a delay slot (R254 to R260, R273, R280, R281). -/

section PcRelative

variable (m n : Reg) (d : BitVec 8) (hs : s.inSlot = false)
include hs

theorem exec_movbLoadPc : exec (.movbLoadPc n) s = loadTo .byte (s.pc + 4 + s.reg 0) n s :=
  guardLegal_of_true (by rw [hs]; rfl)

theorem exec_movwLoadPc : exec (.movwLoadPc n) s = loadTo .word (s.pc + 4 + s.reg 0) n s :=
  guardLegal_of_true (by rw [hs]; rfl)

theorem exec_movlLoadPc : exec (.movlLoadPc n) s = loadTo .long (s.pc + 4 + s.reg 0) n s :=
  guardLegal_of_true (by rw [hs]; rfl)

theorem exec_movbStorePc : exec (.movbStorePc m) s = storeAt .byte (s.pc + 4 + s.reg 0) (s.reg m) s :=
  guardLegal_of_true (by rw [hs]; rfl)

theorem exec_movwStorePc : exec (.movwStorePc m) s = storeAt .word (s.pc + 4 + s.reg 0) (s.reg m) s :=
  guardLegal_of_true (by rw [hs]; rfl)

theorem exec_movlStorePc : exec (.movlStorePc m) s = storeAt .long (s.pc + 4 + s.reg 0) (s.reg m) s :=
  guardLegal_of_true (by rw [hs]; rfl)

theorem exec_leab : exec (.leab n) s = finish (s.setReg n (s.pc + 4 + s.reg 0)) :=
  guardLegal_of_true (by rw [hs]; rfl)

theorem exec_mova : exec (.mova d) s = finish (s.setReg 0 (s.eaPcLong d)) :=
  guardLegal_of_true (by rw [hs]; rfl)

theorem exec_movwLoadPcDisp :
    exec (.movwLoadPcDisp d n) s = loadTo .word (s.pc + 4 + BitVec.ofNat 32 (2 * d.toNat)) n s :=
  (guardLegal_of_true (by rw [hs]; rfl)).trans
    (congrArg (fun x => loadTo .word (s.pc + 4 + x) n s) (disp8_eq .word d))

theorem exec_movlLoadPcDisp : exec (.movlLoadPcDisp d n) s = loadTo .long (s.eaPcLong d) n s :=
  guardLegal_of_true (by rw [hs]; rfl)

end PcRelative

/-! The control and system register forms where their check holds (R165 to R172). -/

section Transfers

theorem exec_stc {m : CtrlIdx} (n : Reg) (h : s.ctrlReadOk m = true) :
    exec (.stc m n) s = finish (s.setReg n (s.readCtrl m)) := guardLegal_of_true h

theorem exec_sts {m : SysIdx} (n : Reg) (h : s.sysOk m = true) :
    exec (.sts m n) s = finish (s.setReg n (s.readSys m)) := guardLegal_of_true h

theorem exec_stcl {m : CtrlIdx} (n : Reg) (h : s.ctrlReadOk m = true) :
    exec (.stcl m n) s = storeDecAt .long n (s.readCtrl m) s := guardLegal_of_true h

theorem exec_stsl {m : SysIdx} (n : Reg) (h : s.sysOk m = true) :
    exec (.stsl m n) s = storeDecAt .long n (s.readSys m) s := guardLegal_of_true h

theorem exec_ldc (m : Reg) {o : CtrlIdx} (h : s.ctrlWriteOk o = true) :
    exec (.ldc m o) s = finish (s.writeCtrl o (s.reg m)) := guardLegal_of_true h

theorem exec_lds (m : Reg) {o : SysIdx} (h : s.sysOk o = true) :
    exec (.lds m o) s = finish (s.writeSys o (s.reg m)) := guardLegal_of_true h

theorem exec_ldcl (m : Reg) {o : CtrlIdx} (h : s.ctrlWriteOk o = true) :
    exec (.ldcl m o) s =
      withLoad .long (s.reg m) s fun v u => finish ((u.setReg m (s.reg m + 4)).writeCtrl o v) := guardLegal_of_true h

theorem exec_ldsl (m : Reg) {o : SysIdx} (h : s.sysOk o = true) :
    exec (.ldsl m o) s =
      withLoad .long (s.reg m) s fun v u => finish ((u.setReg m (s.reg m + 4)).writeSys o v) := guardLegal_of_true h

/-- The value that `STC` reads, row by row of R160. -/
theorem crRead_eq (s : State) (m : CtrlIdx) :
    crRead s m = if s.ctrlReadOk m then some (s.readCtrl m) else none := by
  rcases ctrlReg_cases m with ⟨rfl, hc⟩ | ⟨rfl, hc⟩ | ⟨rfl, hc⟩ | ⟨rfl, hc⟩ | ⟨rfl, hc⟩ | ⟨rfl | rfl, hc⟩ | ⟨rfl, hc⟩ |
      ⟨_, hc, h0, h1, h2, h3, h4, h5, h6, h7⟩
  case inr.inr.inr.inr.inr.inr.inr =>
    have hb : s.crBankReg (m.extractLsb' 0 3) = bankReg s (m.extractLsb' 0 3) := by
      unfold State.crBankReg bankReg
      cases s.cfg.crBankView <;> simp
    simp [crRead, h0, h1, h2, h3, h4, h5, h6, h7, State.ctrlReadOk, State.readCtrl, hc, privOk_eq, hb]
  all_goals simp [crRead, State.ctrlReadOk, State.readCtrl, hc, privOk_eq, State.inSlot, State.pcOperand]

theorem crRead_eq_some {m : CtrlIdx} {v : DWord} (h : crRead s m = some v) :
    s.ctrlReadOk m = true ∧ s.readCtrl m = v := by
  rw [crRead_eq] at h
  split at h
  · exact ⟨‹_›, Option.some.inj h⟩
  · cases h

/-- An access to a system register is allowed where the table gives the index a register (R162, R163). -/
theorem sysOk_eq_isSome (s : State) (m : SysIdx) : s.sysOk m = (sysOf s m).isSome := by
  rcases sysReg_cases m with ⟨rfl, hc⟩ | ⟨rfl, hc⟩ | ⟨rfl, hc⟩ | ⟨rfl, hc⟩ | ⟨rfl, hc⟩ | ⟨rfl, hc⟩ | ⟨rfl, hc⟩ |
      ⟨hc, hm, h0, h1, h2, h3, h5, h6, h15⟩
  case inr.inr.inr.inr.inr.inr.inr => simp [sysOf, h0, h1, h2, h3, h5, h6, h15, State.sysOk, hc]
  all_goals simp [sysOf, State.sysOk, hc, privOk_eq, apply_ite]

/-- The register of an index, as it is read (R162). -/
theorem readSys_eq {m : SysIdx} {x : Special} (h : sysOf s m = some x) : s.readSys m = special s x := by
  rcases sysReg_cases m with ⟨rfl, hc⟩ | ⟨rfl, hc⟩ | ⟨rfl, hc⟩ | ⟨rfl, hc⟩ | ⟨rfl, hc⟩ | ⟨rfl, hc⟩ | ⟨rfl, hc⟩ |
      ⟨hc, hm, h0, h1, h2, h3, h5, h6, h15⟩
  case inr.inr.inr.inr.inr.inr.inr => simp [sysOf, h0, h1, h2, h3, h5, h6, h15] at h
  case inl | inr.inl | inr.inr.inl =>
    simp [sysOf] at h
    simp [State.readSys, hc, ← h, special]
  all_goals
    simp [sysOf] at h
    simp [State.readSys, hc, ← h.2, special]

/-- The register of an index, as it is written, and that nothing else is (R163). -/
theorem writeSys_eq {u : State} {m : SysIdx} {x : Special} (h : sysOf s m = some x) (v : DWord) :
    special (u.writeSys m v) x = v ∧ ∀ y, y ≠ x → special (u.writeSys m v) y = special u y := by
  rcases sysReg_cases m with ⟨rfl, hc⟩ | ⟨rfl, hc⟩ | ⟨rfl, hc⟩ | ⟨rfl, hc⟩ | ⟨rfl, hc⟩ | ⟨rfl, hc⟩ | ⟨rfl, hc⟩ |
      ⟨hc, hm, h0, h1, h2, h3, h5, h6, h15⟩
  case inr.inr.inr.inr.inr.inr.inr => simp [sysOf, h0, h1, h2, h3, h5, h6, h15] at h
  case inl | inr.inl | inr.inr.inl =>
    simp [sysOf] at h
    subst h
    exact ⟨by simp [State.writeSys, hc, special], fun y hy => by cases y <;> simp_all [State.writeSys, special]⟩
  all_goals
    simp [sysOf] at h
    obtain ⟨_, rfl⟩ := h
    exact ⟨by simp [State.writeSys, hc, special], fun y hy => by cases y <;> simp_all [State.writeSys, special]⟩

end Transfers

end Sys2Proof.Claim

/-! PROOFS. The data access of each instruction (20_memory.md, 43_data_transfer.md R283): as a load or a store of the
address in the table `access`, with what reaches devices. -/

namespace Sys2Proof.Claim

open Sys2Proof.Machine

variable {s t u : State} {i : Instr}

/-! What leaves devices alone. -/

theorem SameDevices.refl (s : State) : SameDevices s s := ⟨rfl, rfl⟩

theorem SameDevices.trans (h : SameDevices s u) (h' : SameDevices u t) : SameDevices s t :=
  ⟨h'.1.trans h.1, h'.2.trans h.2⟩

theorem sameDevices_advance (s : State) : SameDevices s s.advance := ⟨by simp, by simp⟩

theorem sameDevices_setReg (s : State) (r : Reg) (v : DWord) : SameDevices s (s.setReg r v) := ⟨by simp, by simp⟩

theorem sameDevices_withT (s : State) (b : Bool) : SameDevices s (s.withT b) := ⟨rfl, rfl⟩

theorem sameDevices_writeCtrl (s : State) (o : CtrlIdx) (v : DWord) : SameDevices s (s.writeCtrl o v) :=
  ⟨by simp, by simp⟩

theorem sameDevices_writeSys (s : State) (o : SysIdx) (v : DWord) : SameDevices s (s.writeSys o v) :=
  ⟨by simp, by simp⟩

theorem sameDevices_raise {c : Cause} {saved : DWord} (h : raise c saved s = .next t) : SameDevices s t := by
  obtain ⟨_, rfl⟩ := raise_next.mp h
  exact ⟨rfl, rfl⟩

theorem sameDevices_finish (h : finish u = .next t) (hu : SameDevices s u) : SameDevices s t := by
  rw [finish_next] at h
  exact h ▸ hu.trans (sameDevices_advance u)

theorem sameDevices_next (h : (.next u : Result) = .next t) (hu : SameDevices s u) : SameDevices s t := by
  cases h; exact hu

theorem sameDevices_guard {ok : Bool} {k : Result} (h : guardLegal ok i s k = .next t)
    (hk : k = .next t → SameDevices s t) : SameDevices s t := by
  rcases guardLegal_next.mp h with ⟨_, h⟩ | ⟨_, h⟩
  · exact hk h
  · exact sameDevices_raise h

/-- An instruction without a data access reaches no device (R283 e): it ends with registers and flags written, branches,
or raises an exception. -/
theorem sameDevices_of_no_access (ha : access s i = none) (h : exec i s = .next t) : SameDevices s t := by
  cases i
  case stc | sts => exact sameDevices_guard h fun h => sameDevices_finish h (sameDevices_setReg _ _ _)
  case lds => exact sameDevices_guard h fun h => sameDevices_finish h (sameDevices_writeSys _ _ _)
  case ldc => exact sameDevices_guard h fun h => sameDevices_finish h (sameDevices_writeCtrl _ _ _)
  case leab | mova => exact sameDevices_guard h fun h => sameDevices_finish h (sameDevices_setReg _ _ _)
  case bsrf | braf | rts | rtsN | jsr | jmp | braN | bra | bsr | rte | sleep =>
    exact sameDevices_guard h fun h => sameDevices_next h ⟨rfl, rfl⟩
  case bt | bf | bts | bfs =>
    refine sameDevices_guard h fun h => ?_
    split at h
    · exact sameDevices_next h ⟨rfl, rfl⟩
    · exact sameDevices_finish h (.refl s)
  case trapa | brk => exact sameDevices_guard h sameDevices_raise
  case ldtlb | movual | movualDec | jsrN | rtvN => exact sameDevices_raise h
  case clrt | sett | clrmac | clrs | sets | nott | nop | pref | icbi | mull | muluw | mulsw | dmulul | dmulsl | div0u |
      div0s | tst | tstImm | cmpstr | cmpeq | cmphs | cmpge | cmphi | cmpgt | cmppz | cmppl | cmpeqImm =>
    exact sameDevices_finish h ⟨rfl, rfl⟩
  case movt | movrt | mov | movImm | and | xor | or | not | andImm | xorImm | orImm | sub | add | addImm | neg | extub |
      extuw | extsb | extsw | swapb | swapw | xtrct | shll2 | shll8 | shll16 | shlr2 | shlr8 | shlr16 | shll4 | shlr4 |
      shad | shld => exact sameDevices_finish h (sameDevices_setReg _ _ _)
  case div1 | subc | subv | addc | addv | negc | dt | shll | shal | shlr | shar | rotl | rotr | rotcl | rotcr =>
    exact sameDevices_finish h (sameDevices_setReg s _ _)
  all_goals cases ha

/-! The load or the store that an instruction is. -/

/-- `i` is a load of this width and address, and what follows the read reaches no device. -/
def IsLoad (s : State) (i : Instr) (w : Width) (a : DWord) : Prop :=
  ∃ f : DWord → State → State, exec i s = withLoad w a s (fun v u => finish (f v u)) ∧ ∀ v u, SameDevices u (f v u)

/-- `i` is a store of this width and address of the value `v`, and what follows the write reaches no device. -/
def IsStore (s : State) (i : Instr) (w : Width) (a v : DWord) : Prop :=
  ∃ f : State → State, exec i s = withStore w a v s (fun u => finish (f u)) ∧ ∀ u, SameDevices u (f u)

theorem isLoad_loadTo {w : Width} {a : DWord} {r : Reg} (h : exec i s = loadTo w a r s) : IsLoad s i w a :=
  ⟨_, h, fun _ _ => sameDevices_setReg _ _ _⟩

theorem isLoad_loadIncTo {w : Width} {m r : Reg} (h : exec i s = loadIncTo w m r s) : IsLoad s i w (s.reg m) :=
  ⟨fun v u => (u.setReg m (s.reg m + w.size)).setReg r (extendLoad w v), h, fun _ _ =>
    (sameDevices_setReg _ _ _).trans (sameDevices_setReg _ _ _)⟩

theorem isStore_storeAt {w : Width} {a v : DWord} (h : exec i s = storeAt w a v s) : IsStore s i w a v :=
  ⟨id, h, .refl⟩

theorem isStore_storeDecAt {w : Width} {r : Reg} {v : DWord} (h : exec i s = storeDecAt w r v s) :
    IsStore s i w (s.reg r - w.size) v :=
  ⟨fun u => u.setReg r (s.reg r - w.size), h, fun _ => sameDevices_setReg _ _ _⟩

/-- A slot-forbidden instruction that passes its checks stands in no slot (R201). -/
theorem inSlot_of_legal (hl : legalHere s i = true) (hf : slotForbidden i = true) : s.inSlot = false := by
  simp only [legalHere, hf, Bool.true_and, Bool.and_eq_true, Bool.not_eq_true'] at hl
  exact hl.1.1

/-- Every load but `CAS.L` (R283 e). -/
theorem exec_load {n : Nat} {a : DWord} (ha : access s i = some (false, n, a)) (hl : legalHere s i = true)
    (hc : ∀ m r, i ≠ .casl m r) : ∃ w : Width, w.bytes = n ∧ IsLoad s i w a := by
  cases i
  case casl m r => exact absurd rfl (hc m r)
  case movbLoadR0 | movbLoad => cases ha; exact ⟨.byte, rfl, isLoad_loadTo rfl⟩
  case movwLoadR0 | movwLoad => cases ha; exact ⟨.word, rfl, isLoad_loadTo rfl⟩
  case movlLoadR0 | movlLoad => cases ha; exact ⟨.long, rfl, isLoad_loadTo rfl⟩
  case movbLoadDisp => cases ha; exact ⟨.byte, rfl, isLoad_loadTo (exec_movbLoadDisp _ _ _)⟩
  case movwLoadDisp => cases ha; exact ⟨.word, rfl, isLoad_loadTo (exec_movwLoadDisp _ _ _)⟩
  case movlLoadDisp => cases ha; exact ⟨.long, rfl, isLoad_loadTo (exec_movlLoadDisp _ _ _ _)⟩
  case movbLoadGbr => cases ha; exact ⟨.byte, rfl, isLoad_loadTo (exec_movbLoadGbr _ _)⟩
  case movwLoadGbr => cases ha; exact ⟨.word, rfl, isLoad_loadTo (exec_movwLoadGbr _ _)⟩
  case movlLoadGbr => cases ha; exact ⟨.long, rfl, isLoad_loadTo (exec_movlLoadGbr _ _)⟩
  case movbLoadInc => cases ha; exact ⟨.byte, rfl, isLoad_loadIncTo rfl⟩
  case movwLoadInc => cases ha; exact ⟨.word, rfl, isLoad_loadIncTo rfl⟩
  case movlLoadInc => cases ha; exact ⟨.long, rfl, isLoad_loadIncTo rfl⟩
  case movbLoadPc => cases ha; exact ⟨.byte, rfl, isLoad_loadTo (exec_movbLoadPc _ (inSlot_of_legal hl rfl))⟩
  case movwLoadPc => cases ha; exact ⟨.word, rfl, isLoad_loadTo (exec_movwLoadPc _ (inSlot_of_legal hl rfl))⟩
  case movlLoadPc => cases ha; exact ⟨.long, rfl, isLoad_loadTo (exec_movlLoadPc _ (inSlot_of_legal hl rfl))⟩
  case movwLoadPcDisp =>
    cases ha; exact ⟨.word, rfl, isLoad_loadTo (exec_movwLoadPcDisp _ _ (inSlot_of_legal hl rfl))⟩
  case movlLoadPcDisp d r =>
    cases ha
    rw [← eaPcLong_eq']
    exact ⟨.long, rfl, isLoad_loadTo (exec_movlLoadPcDisp _ _ (inSlot_of_legal hl rfl))⟩
  case ldsl m o =>
    cases ha
    exact ⟨.long, rfl, _, exec_ldsl m ((sysOk_eq s o m).trans hl), fun _ _ =>
      (sameDevices_setReg _ _ _).trans (sameDevices_writeSys _ _ _)⟩
  case ldcl m o =>
    cases ha
    exact ⟨.long, rfl, _, exec_ldcl m ((ctrlWriteOk_eq s m o).trans hl), fun _ _ =>
      (sameDevices_setReg _ _ _).trans (sameDevices_writeCtrl _ _ _)⟩
  all_goals cases ha

/-- Every store (R283 e). -/
theorem exec_store {n : Nat} {a : DWord} (ha : access s i = some (true, n, a)) (hl : legalHere s i = true) :
    ∃ w : Width, w.bytes = n ∧ IsStore s i w a (storedValue s i) := by
  cases i
  case movbStoreR0 | movbStore => cases ha; exact ⟨.byte, rfl, isStore_storeAt rfl⟩
  case movwStoreR0 | movwStore => cases ha; exact ⟨.word, rfl, isStore_storeAt rfl⟩
  case movlStoreR0 | movlStore | movcal => cases ha; exact ⟨.long, rfl, isStore_storeAt rfl⟩
  case movbStoreDisp => cases ha; exact ⟨.byte, rfl, isStore_storeAt (exec_movbStoreDisp _ _ _)⟩
  case movwStoreDisp => cases ha; exact ⟨.word, rfl, isStore_storeAt (exec_movwStoreDisp _ _ _)⟩
  case movlStoreDisp => cases ha; exact ⟨.long, rfl, isStore_storeAt (exec_movlStoreDisp _ _ _ _)⟩
  case movbStoreGbr => cases ha; exact ⟨.byte, rfl, isStore_storeAt (exec_movbStoreGbr _ _)⟩
  case movwStoreGbr => cases ha; exact ⟨.word, rfl, isStore_storeAt (exec_movwStoreGbr _ _)⟩
  case movlStoreGbr => cases ha; exact ⟨.long, rfl, isStore_storeAt (exec_movlStoreGbr _ _)⟩
  case movbStoreDec => cases ha; exact ⟨.byte, rfl, isStore_storeDecAt rfl⟩
  case movwStoreDec => cases ha; exact ⟨.word, rfl, isStore_storeDecAt rfl⟩
  case movlStoreDec => cases ha; exact ⟨.long, rfl, isStore_storeDecAt rfl⟩
  case movbStorePc => cases ha; exact ⟨.byte, rfl, isStore_storeAt (exec_movbStorePc _ (inSlot_of_legal hl rfl))⟩
  case movwStorePc => cases ha; exact ⟨.word, rfl, isStore_storeAt (exec_movwStorePc _ (inSlot_of_legal hl rfl))⟩
  case movlStorePc => cases ha; exact ⟨.long, rfl, isStore_storeAt (exec_movlStorePc _ (inSlot_of_legal hl rfl))⟩
  case stcl m r =>
    cases ha
    have hok : s.ctrlReadOk m = true := (ctrlReadOk_eq s m r).trans hl
    have hv : storedValue s (.stcl m r) = s.readCtrl m := by
      simp [storedValue, crRead_eq, hok]
    exact ⟨.long, rfl, hv ▸ isStore_storeDecAt (exec_stcl r hok)⟩
  case stsl m r =>
    cases ha
    have hok : s.sysOk m = true := (sysOk_eq s m r).trans hl
    obtain ⟨x, hx⟩ := Option.isSome_iff_exists.mp ((sysOk_eq_isSome s m).symm.trans hok)
    have hv : storedValue s (.stsl m r) = s.readSys m := by
      simp [storedValue, hx, readSys_eq hx]
    exact ⟨.long, rfl, hv ▸ isStore_storeDecAt (exec_stsl r hok)⟩
  all_goals cases ha

theorem exec_casl (s : State) (m r : Reg) : exec (.casl m r) s =
    withLoad .long (s.reg 0) s fun old u => finish ((if old = s.reg m then
      (u.writeMem .long (s.reg 0) (s.reg r)).withT true else u.withT false).setReg r old) := rfl

/-! The checks of an access (R75, R79). -/

theorem withLoad_of_misaligned {w : Width} {a : DWord} {k : DWord → State → Result} (h : aligned w a = false) :
    withLoad w a s k = raise (.addressErrorRead a) s.faultPc s := by
  simp [withLoad, h]

theorem withLoad_of_refused {w : Width} {a : DWord} {k : DWord → State → Result} {r : Refusal}
    (h : aligned w a = true) (hr : s.accessRefusal w a = some r) : withLoad w a s k = .refused r := by
  simp [withLoad, h, hr]

theorem withStore_of_misaligned {w : Width} {a v : DWord} {k : State → Result} (h : aligned w a = false) :
    withStore w a v s k = raise (.addressErrorWrite a) s.faultPc s := by
  simp [withStore, h]

theorem withStore_of_refused {w : Width} {a v : DWord} {k : State → Result} {r : Refusal}
    (h : aligned w a = true) (hr : s.accessRefusal w a = some r) : withStore w a v s k = .refused r := by
  simp [withStore, h, hr]

/-- The checks of every data access: alignment first, then `MEM_MAP` (R75, R79, R436). -/
theorem access_checked {write : Bool} {n : Nat} {a : DWord} (ha : access s i = some (write, n, a))
    (hl : legalHere s i = true) : ∃ w : Width, w.bytes = n ∧
      (aligned w a = false →
        exec i s = raise (if write then .addressErrorWrite a else .addressErrorRead a) s.faultPc s) ∧
      ∀ r, aligned w a = true → s.accessRefusal w a = some r → exec i s = .refused r := by
  cases write with
  | true =>
    obtain ⟨w, hw, f, he, _⟩ := exec_store ha hl
    exact ⟨w, hw, fun h => he.trans (withStore_of_misaligned h), fun _ h hr => he.trans (withStore_of_refused h hr)⟩
  | false =>
    by_cases hc : ∀ m r, i ≠ .casl m r
    · obtain ⟨w, hw, f, he, _⟩ := exec_load ha hl hc
      exact ⟨w, hw, fun h => he.trans (withLoad_of_misaligned h), fun _ h hr => he.trans (withLoad_of_refused h hr)⟩
    · simp only [not_forall, not_not] at hc
      obtain ⟨m, r, rfl⟩ := hc
      cases ha
      exact ⟨.long, rfl, fun h => (exec_casl s m r).trans (withLoad_of_misaligned h), fun _ h hr =>
        (exec_casl s m r).trans (withLoad_of_refused h hr)⟩

/-! What the accesses of an instruction are to devices (R78, R83). -/

/-- An instruction whose check fails makes no access. -/
theorem accessed_of_not_legal (hl : legalHere s i = false) : accessed s i = s := by
  unfold accessed
  split
  · rfl
  · simp [hl]

/-- A misaligned access is not made. -/
theorem accessed_of_misaligned {write : Bool} {n : Nat} {a : DWord} (ha : access s i = some (write, n, a))
    (hn : a.toNat % n ≠ 0) : accessed s i = s := by
  unfold accessed
  rw [ha]
  exact if_neg fun h => hn h.2

/-- The one access of every instruction but `CAS.L`. -/
theorem accessed_of_access {write : Bool} {n : Nat} {a : DWord} (ha : access s i = some (write, n, a))
    (hl : legalHere s i = true) (hn : a.toNat % n = 0) (hc : ∀ m r, i ≠ .casl m r) :
    accessed s i = if write then afterWrite s n a (storedValue s i) else afterRead s n a := by
  unfold accessed
  rw [ha]
  refine (if_pos ⟨hl, hn⟩).trans ?_
  cases i
  case casl m r => exact absurd rfl (hc m r)
  all_goals rfl

/-- The read of `CAS.L`, and its write where the values match (R233). -/
theorem accessed_casl {m r : Reg} (hn : (s.reg 0).toNat % 4 = 0) : accessed s (.casl m r) =
    if loaded s Width.long.bytes (s.reg 0) = s.reg m then
      afterWrite (afterRead s Width.long.bytes (s.reg 0)) Width.long.bytes (s.reg 0) (s.reg r)
    else afterRead s Width.long.bytes (s.reg 0) :=
  if_pos ⟨rfl, hn⟩

/-- A store reaches a device as `afterWrite` says. -/
theorem sameDevices_writeMem (s : State) (w : Width) (a v : DWord) :
    SameDevices (afterWrite s w.bytes a v) (s.writeMem w a v) := by
  obtain ⟨_, _, _, _, _, _, _, _, hinput, _⟩ := afterWrite_keeps s w a v
  exact ⟨writeMem_deviceLog s w a v, by rw [hinput]; simp⟩

/-- A store with a next state is misaligned and raises its exception, or is made. -/
theorem sameDevices_withStore {w : Width} {a v : DWord} {f : State → State} (hf : ∀ u, SameDevices u (f u))
    (h : withStore w a v s (fun u => finish (f u)) = .next t) :
    (aligned w a = false ∧ SameDevices s t) ∨ (aligned w a = true ∧ SameDevices (afterWrite s w.bytes a v) t) := by
  rcases withStore_next.mp h with ⟨hal, _, hk⟩ | ⟨hal, hr⟩
  · exact .inr ⟨hal, (sameDevices_writeMem s w a v).trans (sameDevices_finish hk (hf _))⟩
  · exact .inl ⟨hal, sameDevices_raise hr⟩

/-- A load with a next state is misaligned and raises its exception, or is made. -/
theorem sameDevices_withLoad {w : Width} {a : DWord} {f : DWord → State → State}
    (h : withLoad w a s (fun v u => finish (f v u)) = .next t) :
    (aligned w a = false ∧ SameDevices s t) ∨
    (aligned w a = true ∧ SameDevices (f (s.loadValue w a) (afterRead s w.bytes a)) t) := by
  rcases withLoad_next.mp h with ⟨hal, _, hk⟩ | ⟨hal, hr⟩
  · rw [afterRead_eq]
    exact .inr ⟨hal, sameDevices_finish hk (.refl _)⟩
  · exact .inl ⟨hal, sameDevices_raise hr⟩

/-- Alignment fails where the remainder is not 0 (R75). -/
theorem aligned_eq_false_iff (w : Width) (a : DWord) : aligned w a = false ↔ a.toNat % w.bytes ≠ 0 := by
  rw [← Bool.not_eq_true, aligned_iff]

/-- A long is loaded as it is read (R77). -/
theorem loaded_long (s : State) (a : DWord) : loaded s Width.long.bytes a = s.loadValue .long a := loaded_eq s .long a

/-- `CAS.L` reaches devices as `accessed` says (R233). -/
theorem sameDevices_casl {m r : Reg} (h : exec (.casl m r) s = .next t) :
    SameDevices (accessed s (.casl m r)) t := by
  rw [exec_casl] at h
  rcases sameDevices_withLoad (w := .long) (a := s.reg 0) (f := fun old u => (if old = s.reg m then
      (u.writeMem .long (s.reg 0) (s.reg r)).withT true else u.withT false).setReg r old) h with ⟨hal, ht⟩ | ⟨hal, ht⟩
  · rwa [accessed_of_misaligned (n := 4) rfl ((aligned_eq_false_iff _ _).mp hal)]
  · rw [accessed_casl ((aligned_iff .long _).mp hal), loaded_long]
    refine .trans ?_ ht
    by_cases he : s.loadValue .long (s.reg 0) = s.reg m
    · rw [if_pos he, if_pos he]
      exact ((sameDevices_writeMem _ .long _ _).trans (sameDevices_withT _ _)).trans (sameDevices_setReg _ _ _)
    · rw [if_neg he, if_neg he]
      exact (sameDevices_withT _ _).trans (sameDevices_setReg _ _ _)

/-- Every instruction with a next state has reached devices with exactly the accesses of the table (R78, R83). -/
theorem sameDevices_accessed (h : exec i s = .next t) : SameDevices (accessed s i) t := by
  cases hl : legalHere s i with
  | false =>
    rw [accessed_of_not_legal hl]
    exact sameDevices_raise (exec_of_not_legal i hl ▸ h)
  | true =>
    by_cases hc : ∀ m r, i ≠ .casl m r
    case neg =>
      simp only [not_forall, not_not] at hc
      obtain ⟨m, r, rfl⟩ := hc
      exact sameDevices_casl h
    rcases ha : access s i with _ | ⟨_ | _, n, a⟩
    · rw [show accessed s i = s by simp only [accessed, ha]]
      exact sameDevices_of_no_access ha h
    · obtain ⟨w, rfl, f, he, hf⟩ := exec_load ha hl hc
      rcases sameDevices_withLoad (he ▸ h) with ⟨hal, ht⟩ | ⟨hal, ht⟩
      · rwa [accessed_of_misaligned ha ((aligned_eq_false_iff w a).mp hal)]
      · rw [accessed_of_access ha hl ((aligned_iff w a).mp hal) hc]
        exact (hf _ _).trans ht
    · obtain ⟨w, rfl, f, he, hf⟩ := exec_store ha hl
      rcases sameDevices_withStore hf (he ▸ h) with ⟨hal, ht⟩ | ⟨hal, ht⟩
      · rwa [accessed_of_misaligned ha ((aligned_eq_false_iff w a).mp hal)]
      · rwa [accessed_of_access ha hl ((aligned_iff w a).mp hal) hc]

/-! A step. -/

/-- Every instruction with a next state has added to what reached devices (R83). -/
theorem devicesFollow_of_ends (h : Ends s t) : s.devicesFollow t := by
  rcases h with ⟨c, saved, _, rfl, _⟩ | ho
  · exact devicesFollow_refl s
  · exact ho.devices

/-- The read of a fetch is one access at most. -/
theorem fetched_few (s : State) : (fetched s).deviceLog.length ≤ s.deviceLog.length + 1 := by
  cases he : s.pc.getLsbD 0
  · rw [fetched_of_even he]
    exact afterLoad_few (afterBoundary s) .word s.pc
  · rw [fetched_of_odd he]
    exact Nat.le_succ _

/-- What a step adds to what reached devices, and how much (R78, R83). -/
theorem step_devicesFollow (h : step s = .next t) :
    s.devicesFollow t ∧ t.deviceLog.length ≤ s.deviceLog.length + 3 := by
  rcases step_inversion h with ⟨l, _, _, rfl⟩ | ⟨_, _, rfl⟩ | ⟨_, _, _, rfl⟩ | ⟨_, _, _, hr⟩
  · exact ⟨devicesFollow_refl s, Nat.le_add_right _ _⟩
  · exact ⟨devicesFollow_refl s, Nat.le_add_right _ _⟩
  · exact ⟨devicesFollow_refl s, Nat.le_add_right _ _⟩
  · have hstops : StopsFor (fetched s) (.next t) := hr ▸ runWord_stops (wordAt s)
    have hlen : t.deviceLog.length ≤ (fetched s).deviceLog.length + 2 := hstops
    have hfew := fetched_few s
    exact ⟨(devicesFollow_fetched s).trans (devicesFollow_of_ends (runWord_ends hr)) (fetched_cfg s), by omega⟩

/-- Settles O15, by the four ways of a step: only one of them fetches. -/
theorem deviceAccessesAreExactlyTheProgramsOwn : Obligations.DeviceAccessesAreExactlyTheProgramsOwn := by
  intro s t h
  refine ⟨fun hnone => ?_, fun hq hs he => ?_, step_devicesFollow h⟩
  · rcases step_inversion h with ⟨l, _, _, rfl⟩ | ⟨_, _, rfl⟩ | ⟨_, _, _, rfl⟩ | ⟨hq, hs, he, _⟩
    · exact ⟨rfl, rfl⟩
    · exact ⟨rfl, rfl⟩
    · exact ⟨rfl, rfl⟩
    · rcases hnone with ⟨l, hl, ha⟩ | hs' | ho
      · exact absurd ha (hq l hl)
      · exact absurd (hs.symm.trans hs') (by decide)
      · exact absurd (he.symm.trans ho) (by decide)
  · have hr : runWord exec (wordAt s) (fetched s) = .next t := by
      rcases step_inversion h with ⟨l, hl, ha, _⟩ | ⟨_, hs', _⟩ | ⟨_, _, ho, _⟩ | ⟨_, _, _, hr⟩
      · exact absurd ha (hq l hl)
      · exact absurd (hs.symm.trans hs') (by decide)
      · exact absurd (he.symm.trans ho) (by decide)
      · exact hr
    exact ⟨fun i hd => sameDevices_accessed (runWord_of_ok hd ▸ hr),
      fun e hd => sameDevices_raise (runWord_of_error hd ▸ hr)⟩

end Sys2Proof.Claim

/-! PROOFS. Exceptions (48_system_trap.md, 60_exceptions.md): what raises which kind, what is refused, and the return. -/

namespace Sys2Proof.Claim

open Sys2Proof.Machine

variable {s t : State} {i : Instr}

/-! The two illegal-instruction kinds. -/

/-- An illegal instruction is raised as the kind of its place, from the address of its place (R423, R424). -/
theorem raiseIllegal_eq (w : Word) (s : State) :
    raiseIllegal w s = raise (illegalCause s w) (savedPc s) s := by
  unfold raiseIllegal
  rw [cause_eq, faultPc_eq]

/-- What `exec` answers for an illegal instruction while SR.BL = 0 (R423, R424). -/
theorem raisesIllegal_of_exec (he : exec i s = raiseIllegal (encode i) s) (hb : s.sr.getLsbD 28 = false) :
    RaisesIllegal i s := by
  unfold RaisesIllegal Runs
  rw [he]
  exact raiseIllegal_entered s _ hb

/-- What fails a check of R436 (2) to (4): forbidden in the slot it stands in, privileged in user mode, a reserved
index. -/
theorem legalHere_eq_false (h : slotForbidden i = true ∧ s.delayTarget.isSome = true ∨
    privileged i = true ∧ s.cfg.privCheck = true ∧ s.sr.getLsbD 30 = false ∨ reservedIndex s i = true) :
    legalHere s i = false := by
  rcases h with ⟨hf, hd⟩ | ⟨hp, hc, hm⟩ | hr
  · simp [legalHere, hf, hd]
  · have hu : priv s = false := by rw [priv, hm, hc]; rfl
    simp [legalHere, hp, hu]
  · simp [legalHere, hr]

/-- The five unimplemented rows are illegal wherever they stand (R131). -/
theorem exec_of_unimplemented (h : unimplemented i = true) : exec i s = raiseIllegal (encode i) s := by
  cases i
  case ldtlb | movual | movualDec | jsrN | rtvN => rfl
  all_goals cases h

/-- Settles O26: each row is the illegal-instruction exception. -/
theorem unimplementedRowsRaiseIllegal : Obligations.UnimplementedRowsRaiseIllegal := fun _ hb =>
  ⟨raisesIllegal_of_exec rfl hb, fun _ => raisesIllegal_of_exec rfl hb, fun _ => raisesIllegal_of_exec rfl hb,
    fun _ => raisesIllegal_of_exec rfl hb, fun _ => raisesIllegal_of_exec rfl hb⟩

/-- Settles O25: a failed check is all the instruction does. -/
theorem privilegeAndIndexChecksRaiseIllegal : Obligations.PrivilegeAndIndexChecksRaiseIllegal :=
  ⟨fun i _ hp hc hm => raisesIllegal_of_exec (exec_of_not_legal i (legalHere_eq_false (.inr (.inl ⟨hp, hc, hm⟩)))),
    fun i _ hr => raisesIllegal_of_exec (exec_of_not_legal i (legalHere_eq_false (.inr (.inr hr))))⟩

/-- Settles O24: the slot check fails, and in a slot the kind and the address are the slot's. -/
theorem forbiddenInSlotRaisesSlotIllegal : Obligations.ForbiddenInSlotRaisesSlotIllegal := by
  intro i s hf hd hb
  have hi := raisesIllegal_of_exec (exec_of_not_legal i (legalHere_eq_false (.inl ⟨hf, hd⟩))) hb
  have hn : s.delayTarget ≠ none := Option.isSome_iff_ne_none.mp hd
  rwa [RaisesIllegal, illegalCause, if_neg hn, savedPc, if_neg hn] at hi

/-! The trap instructions and the return. -/

theorem exec_trapa (j : BitVec 8) (hd : s.delayTarget = none) : exec (.trapa j) s = raise (.trapa j) (s.pc + 2) s :=
  guardLegal_of_true (by rw [inSlot_none s hd]; rfl)

theorem exec_brk (hd : s.delayTarget = none) : exec .brk s = raise .breakpoint (s.pc + 2) s :=
  guardLegal_of_true (by rw [inSlot_none s hd]; rfl)

theorem exec_rte (hd : s.delayTarget = none) (hp : priv s = true) : exec .rte s = .next s.returnFromException :=
  guardLegal_of_true (by rw [inSlot_none s hd, privOk_eq, hp]; rfl)

theorem exec_sleep (hd : s.delayTarget = none) (hp : priv s = true) :
    exec .sleep s = .next { s with sleeping := true, pc := s.pc + 2 } :=
  guardLegal_of_true (by rw [inSlot_none s hd, privOk_eq, hp]; rfl)

/-- Settles O21: outside a slot both raise their exception. -/
theorem trapaAndBrkEnterTheHandler : Obligations.TrapaAndBrkEnterTheHandler := by
  intro s hd hb
  refine ⟨fun j => ?_, ?_⟩
  · rw [Runs, exec_trapa j hd]
    exact raise_entered s _ _ hb
  · rw [Runs, exec_brk hd]
    exact raise_entered s _ _ hb

/-- A return changes SR and nothing else but where the machine goes (R411). -/
theorem frame_returnFromException (s : State) : Frame s s.returnFromException [] 0xFFFFFFFF [] [] [] := by
  constructor
  case sr =>
    intro i hi
    by_cases h32 : i < 32
    · have key : ∀ k : Fin 32, (0xFFFFFFFF : DWord).getLsbD k = true := by decide
      exact absurd ((key ⟨i, h32⟩).symm.trans hi) (by decide)
    · rw [BitVec.getLsbD_of_ge _ _ (Nat.le_of_not_lt h32), BitVec.getLsbD_of_ge _ _ (Nat.le_of_not_lt h32)]
  case special => intro x _; exact special_congr (by simp) x
  all_goals simp

/-- Going to sleep changes the sleep bit and nothing else but where the machine goes (R412). -/
theorem frame_sleep (s : State) (pc : DWord) :
    Frame { s with sleeping := true } { s with sleeping := true, pc := pc } [] 0 [] [] [] := by
  constructor
  case regs => intro p _; cases p <;> rfl
  case special => intro x _; cases x <;> rfl
  all_goals simp [State.byteAt]

/-- Settles O22: both pass their check, and each is one update of the state. -/
theorem rteReturnsAndSleepSleeps : Obligations.RteReturnsAndSleepSleeps := fun s hd hp =>
  ⟨⟨_, exec_rte hd hp, rfl, rfl, rfl, frame_returnFromException s⟩,
    ⟨_, exec_sleep hd hp, rfl, rfl, hd, frame_sleep s _⟩⟩

/-- A register number names one physical register where SR and the parameters are alike (R22). -/
theorem physOf_congr (hsr : t.sr = s.sr) (hcfg : t.cfg = s.cfg) (r : Reg) : t.physOf r = s.physOf r := by
  have hb : t.bankBMapped = s.bankBMapped := by
    unfold State.bankBMapped State.md State.rb
    rw [hsr, hcfg]
  unfold State.physOf
  rw [hb]

/-- General registers are read alike where SR, the banks and the parameters are alike. -/
theorem reg_congr (hsr : t.sr = s.sr) (hcfg : t.cfg = s.cfg) (hp : ∀ p, t.readPhys p = s.readPhys p) (r : Reg) :
    t.reg r = s.reg r := by
  rw [State.reg, State.reg, physOf_congr hsr hcfg, hp]

/-- Settles O23: trap entry saved SR and the address after `TRAPA`, and is in supervisor mode out of a slot. -/
theorem returnUndoesTrapEntry : Obligations.ReturnUndoesTrapEntry := by
  intro s t j hd hm h
  rw [exec_trapa j hd] at h
  obtain ⟨_, rfl⟩ := raise_next.mp h
  have hp : priv (s.enterTrap (.trapa j) (s.pc + 2) s.cfg.vecGeneral) = true := by
    rw [priv, md_enterTrap]; rfl
  have hregs : ∀ p, (s.enterTrap (.trapa j) (s.pc + 2) s.cfg.vecGeneral).returnFromException.readPhys p =
      s.readPhys p := fun p => by simp
  exact ⟨_, exec_rte rfl hp, hm, rfl, rfl, hregs, reg_congr hm rfl hregs, fun a => by simp⟩

/-! Address errors and refusals. -/

/-- Settles O27: the alignment check is the first of the access. -/
theorem misalignedAccessRaisesAddressError : Obligations.MisalignedAccessRaisesAddressError := by
  intro i s write n a ha hl hn hb
  obtain ⟨w, rfl, hraise, _⟩ := access_checked ha hl
  rw [Runs, hraise ((aligned_eq_false_iff w a).mpr hn), faultPc_eq]
  exact raise_entered s _ _ hb

/-- Settles O28: the bytes are checked after the alignment. -/
theorem accessOutsideMemoryIsRefused : Obligations.AccessOutsideMemoryIsRefused := by
  intro i s write n a k ha hl hn hk
  obtain ⟨w, rfl, _, hrefused⟩ := access_checked ha hl
  have hal := (aligned_iff w a).mpr hn
  exact ⟨fun hbefore hnone => hrefused _ hal (accessRefusal_of_unmapped hn hk hbefore hnone),
    fun hall hne => hrefused _ hal (accessRefusal_of_shared hn hk hall hne)⟩

/-! While SR.BL = 1. -/

/-- An exception raised while SR.BL = 1 stops the machine (R435). -/
theorem raise_of_blocked (h : s.sr.getLsbD 28 = true) (c : Cause) (saved : DWord) :
    raise c saved s = .fault (.exceptionWhileBlocked c) :=
  if_pos h

/-- No request is accepted while SR.BL = 1 (R441). -/
theorem quiet_of_blocked (h : s.sr.getLsbD 28 = true) : Quiet s :=
  fun _ _ ha => absurd (h.symm.trans ha.2.1) (by decide)

/-- An instruction with a failed check, or without an implementation, stops while SR.BL = 1. -/
theorem exec_illegal_of_blocked (hb : s.sr.getLsbD 28 = true) (h : slotForbidden i = true ∧ s.delayTarget.isSome = true ∨
    privileged i = true ∧ s.cfg.privCheck = true ∧ s.sr.getLsbD 30 = false ∨ reservedIndex s i = true ∨
    unimplemented i = true) : exec i s = .fault (.exceptionWhileBlocked (illegalCause s (encode i))) := by
  have he : exec i s = raiseIllegal (encode i) s := by
    rcases h with h | h | h | h
    · exact exec_of_not_legal i (legalHere_eq_false (.inl h))
    · exact exec_of_not_legal i (legalHere_eq_false (.inr (.inl h)))
    · exact exec_of_not_legal i (legalHere_eq_false (.inr (.inr h)))
    · exact exec_of_unimplemented h
  rw [he, raiseIllegal_eq, raise_of_blocked hb]

/-- A misaligned access stops while SR.BL = 1. -/
theorem exec_misaligned_of_blocked (hb : s.sr.getLsbD 28 = true) {write : Bool} {n : Nat} {a : DWord}
    (ha : access s i = some (write, n, a)) (hl : legalHere s i = true) (hn : a.toNat % n ≠ 0) :
    exec i s = .fault (.exceptionWhileBlocked (if write then .addressErrorWrite a else .addressErrorRead a)) := by
  obtain ⟨w, rfl, hraise, _⟩ := access_checked ha hl
  rw [hraise ((aligned_eq_false_iff w a).mpr hn), raise_of_blocked hb]

/-- Settles O19: the two faults of a step by its possible results, and each stop by the exception it raises. -/
theorem stopsOnlyWhileBlockedOrAsleepForGood : Obligations.StopsOnlyWhileBlockedOrAsleepForGood := by
  refine ⟨fun _ _ => step_fault, fun s hb => ⟨fun hd => ⟨fun j => ?_, ?_⟩, fun _ => exec_illegal_of_blocked hb,
    fun _ _ _ _ => exec_misaligned_of_blocked hb, fun w e hf hd => ?_, fun hs ho => ?_⟩⟩
  · rw [exec_trapa j hd, raise_of_blocked hb]
  · rw [exec_brk hd, raise_of_blocked hb]
  · rw [hf.step_eq, runWord_of_error hd, raiseIllegal_eq, raise_of_blocked (by rwa [fetched_sr]), fetched_illegalCause]
  · rw [step_of_odd (quiet_of_blocked hb) hs ho]
    exact raise_of_blocked (s := afterBoundary s) hb _ _

end Sys2Proof.Claim

/-! PROOFS. System and control registers (40_system_registers.md): the flag moves, and the copies, pushes and pops of the
registers of R43 and R44. -/

namespace Sys2Proof.Claim

open Sys2Proof.Machine

variable {s t u : State} {i : Instr}

/-! From the equation of an instruction to its statement. -/

/-- An instruction that only moves on. -/
theorem runs_skips (he : exec i s = finish s) : Runs i s (Skips s) := runs_of_exec_eq_finish he (skips_advance s)

/-- A pre-decrement store that is answered. -/
theorem runs_storeDecAt {w : Width} {n : Reg} {v : DWord} (he : exec i s = storeDecAt w n v s)
    (h : Answered s w.bytes (s.reg n - w.size)) : Runs i s (StoresDec s w.bytes n (s.reg n - w.size) v) := by
  rw [Runs, he]
  exact storeDecAt_storesDec s w n v h

/-- A load that is answered, whatever is done with the value. -/
theorem runs_withLoad {w : Width} {a : DWord} {f : DWord → State → State} {P : State → Prop}
    (he : exec i s = withLoad w a s fun v u => finish (f v u)) (h : Answered s w.bytes a)
    (hP : P (f (loaded s w.bytes a) (afterRead s w.bytes a)).advance)
    (hl : s.loadValue w a = loaded s w.bytes a := by exact (loaded_long s _).symm) : Runs i s P := by
  obtain ⟨hal, hr⟩ := (answered_iff s w a).mp h
  rw [← hl, afterRead_eq] at hP
  exact ⟨_, he.trans (withLoad_next.mpr (.inl ⟨hal, hr, finish_next.mpr rfl⟩)), hP⟩

/-! Flags. -/

/-- The complement of T as a value (R181). -/
theorem bitDWord_not (b : Bool) : bitDWord (!b) = if b then 0 else 1 := by cases b <;> rfl

/-- Settles O30: one write of T, none, and two of a register. -/
theorem nopAndMovesOfT : Obligations.NopAndMovesOfT := fun s =>
  ⟨runs_setsT rfl, fun _ => runs_skips rfl, fun _ => runs_setsReg rfl, fun n =>
    runs_setsReg (congrArg (fun v => finish (s.setReg n v)) (bitDWord_not s.t))⟩

/-! Copies and pushes. -/

/-- Settles O31: the check holds where the tables give a value, and the value is theirs. -/
theorem stcAndStsCopyToRegister : Obligations.StcAndStsCopyToRegister := by
  intro s m n
  refine ⟨fun v hv => ?_, fun x hx => ?_⟩
  · obtain ⟨hok, rfl⟩ := crRead_eq_some hv
    exact runs_setsReg (exec_stc n hok)
  · rw [← readSys_eq hx]
    exact runs_setsReg (exec_sts n (by rw [sysOk_eq_isSome, hx]; rfl))

/-- Settles O32: the same values, stored with the decrement. -/
theorem stcLongAndStsLongPush : Obligations.StcLongAndStsLongPush := by
  intro s m n ha
  refine ⟨fun v hv => ?_, fun x hx => ?_⟩
  · obtain ⟨hok, rfl⟩ := crRead_eq_some hv
    exact runs_storeDecAt (w := .long) (exec_stcl n hok) ha
  · rw [← readSys_eq hx]
    exact runs_storeDecAt (w := .long) (exec_stsl n (by rw [sysOk_eq_isSome, hx]; rfl)) ha

/-! Where `LDC` and `LDS` write. -/

/-- Where a write of a control register goes, row by row of R161. -/
theorem crDest_eq_some {o : CtrlIdx} {d : Dest} (h : crDest s o = some d) : s.ctrlWriteOk o = true ∧
    ((ctrlReg o = .sr ∧ d = .sr) ∨ (ctrlReg o = .gbr ∧ d = .special .gbr) ∨ (ctrlReg o = .vbr ∧ d = .special .vbr) ∨
      (ctrlReg o = .ssr ∧ d = .special .ssr) ∨ (ctrlReg o = .spc ∧ d = .special .spc) ∨
      ∃ k, ctrlReg o = .bank k ∧ d = .reg (s.crBankReg k)) := by
  rcases ctrlReg_cases o with ⟨rfl, hc⟩ | ⟨rfl, hc⟩ | ⟨rfl, hc⟩ | ⟨rfl, hc⟩ | ⟨rfl, hc⟩ | ⟨rfl | rfl, hc⟩ | ⟨rfl, hc⟩ |
      ⟨_, hc, h0, h1, h2, h3, h4, h5, h6, h7⟩
  case inr.inr.inr.inr.inr.inr.inr =>
    have hb : bankReg s (o.extractLsb' 0 3) = s.crBankReg (o.extractLsb' 0 3) := by
      unfold State.crBankReg bankReg
      cases s.cfg.crBankView <;> simp
    simp [crDest, h0, h1, h2, h3, h4, h5, h6, h7] at h
    simp [State.ctrlWriteOk, hc, privOk_eq, h.1, ← h.2, hb]
  case inr.inr.inr.inr.inr.inl.inl | inr.inr.inr.inr.inr.inl.inr | inr.inr.inr.inr.inr.inr.inl => simp [crDest] at h
  case inr.inl =>
    simp [crDest] at h
    simp [State.ctrlWriteOk, hc, h]
  all_goals
    simp [crDest] at h
    simp [State.ctrlWriteOk, hc, privOk_eq, State.inSlot, h]

/-- The bank that `LDC` names is that of the state before the load (R44). -/
theorem crBankReg_congr (hsr : u.sr = s.sr) (hcfg : u.cfg = s.cfg) (k : BitVec 3) : u.crBankReg k = s.crBankReg k := by
  have hb : u.bankBMapped = s.bankBMapped := by
    unfold State.bankBMapped State.md State.rb
    rw [hsr, hcfg]
  unfold State.crBankReg
  rw [hcfg, hb]

/-- A write of a control register puts the value in its destination (R161). -/
theorem holds_writeCtrl {o : CtrlIdx} {d : Dest} (h : crDest s o = some d) (hsr : u.sr = s.sr) (hcfg : u.cfg = s.cfg)
    (v : DWord) : d.holds s v (u.writeCtrl o v).advance := by
  rcases (crDest_eq_some h).2 with ⟨hc, rfl⟩ | ⟨hc, rfl⟩ | ⟨hc, rfl⟩ | ⟨hc, rfl⟩ | ⟨hc, rfl⟩ | ⟨k, hc, rfl⟩
  case inr.inr.inr.inr.inr => simp [Dest.holds, State.writeCtrl, hc, crBankReg_congr hsr hcfg]
  case inl => simp [Dest.holds, State.writeCtrl, hc, hcfg]
  all_goals simp [Dest.holds, State.writeCtrl, hc, special]

/-- A write of a control register changes its destination and nothing else (R161). -/
theorem keeps_writeCtrl {o : CtrlIdx} {d : Dest} (h : crDest s o = some d) (hsr : u.sr = s.sr) (hcfg : u.cfg = s.cfg)
    (v : DWord) : (∀ p, p ∉ d.regs → (u.writeCtrl o v).readPhys p = u.readPhys p) ∧
      (∀ j, d.srBits.getLsbD j = false → (u.writeCtrl o v).sr.getLsbD j = u.sr.getLsbD j) ∧
      ∀ x, x ∉ d.specials → special (u.writeCtrl o v) x = special u x := by
  rcases (crDest_eq_some h).2 with ⟨hc, rfl⟩ | ⟨hc, rfl⟩ | ⟨hc, rfl⟩ | ⟨hc, rfl⟩ | ⟨hc, rfl⟩ | ⟨k, hc, rfl⟩ <;>
    simp only [State.writeCtrl, hc]
  case inr.inr.inr.inr.inr =>
    refine ⟨fun p hp => ?_, fun j _ => by simp, fun x _ => special_congr (by simp) x⟩
    simp only [Dest.regs, List.mem_singleton, ← crBankReg_congr hsr hcfg] at hp
    simp [hp]
  case inl =>
    refine ⟨fun p _ => by cases p <;> rfl, fun j hj => ?_, fun x _ => by cases x <;> rfl⟩
    exact (frame_returnFromException { u with ssr := v }).sr j hj
  all_goals
    refine ⟨fun p _ => by cases p <;> rfl, fun _ _ => True.intro, fun x hx => ?_⟩
    simp only [Dest.specials, List.mem_singleton] at hx
    cases x <;> simp_all [special]

/-- The end of an instruction writes no special register. -/
theorem special_advance (s : State) (x : Special) : special s.advance x = special s x := special_congr (by simp) x

/-- The frame of a state that nothing has happened to. -/
theorem Frame.refl (s : State) : Frame s s [] 0 [] [] [] := by constructor <;> simp

/-- A register written before a control register is (R170). -/
theorem frame_setReg (s : State) (m : Reg) (v : DWord) : Frame s (s.setReg m v) [s.physOf m] 0 [] [] [] := by
  constructor
  case regs => intro p hp; simp at hp; simp [hp]
  case special => intro x _; exact special_congr (by simp) x
  all_goals simp

/-- `LDC` at the end of an instruction, after registers that may have been written. -/
theorem frame_writeCtrl_advance {r : State} {regs : List PhysReg} {o : CtrlIdx} {d : Dest} (h : crDest s o = some d)
    (hsr : u.sr = s.sr) (hcfg : u.cfg = s.cfg) (hf : Frame r u regs 0 [] [] []) (v : DWord) :
    Frame r (u.writeCtrl o v).advance (regs ++ d.regs) d.srBits d.specials [] [] := by
  obtain ⟨hregs, hbits, hspecial⟩ := keeps_writeCtrl h hsr hcfg v
  constructor
  case regs =>
    intro p hp
    rw [List.mem_append, not_or] at hp
    rw [advance_readPhys, hregs p hp.2, hf.regs p hp.1]
  case sr => intro j hj; rw [advance_sr, hbits j hj, hf.sr j (by simp)]
  case special =>
    intro x hx
    rw [special_advance, hspecial x hx, hf.special x (by simp)]
  case bytes => intro a ha; rw [← hf.bytes a ha]; simp
  case stale => intro n hn; rw [← hf.stale n hn]; simp
  case sleeping => rw [← hf.sleeping]; simp
  case lastCause => rw [← hf.lastCause]; simp
  case irqs => rw [← hf.irqs]; simp
  case deviceInput => rw [← hf.deviceInput]; simp
  case deviceLog => rw [← hf.deviceLog]; simp
  case cfg => rw [← hf.cfg]; simp

/-- `LDS` at the end of an instruction, after registers that may have been written. -/
theorem frame_writeSys_advance {r : State} {regs : List PhysReg} {o : SysIdx} {x : Special} (h : sysOf s o = some x)
    (hf : Frame r u regs 0 [] [] []) (v : DWord) : Frame r (u.writeSys o v).advance regs 0 [x] [] [] := by
  constructor
  case regs => intro p hp; rw [← hf.regs p hp]; simp
  case sr => intro j hj; rw [← hf.sr j hj]; simp
  case special =>
    intro y hy
    exact (special_advance _ y).trans (((writeSys_eq h v).2 y (by simpa using hy)).trans (hf.special y (by simp)))
  case bytes => intro a ha; rw [← hf.bytes a ha]; simp
  case stale => intro n hn; rw [← hf.stale n hn]; simp
  case sleeping => rw [← hf.sleeping]; simp
  case lastCause => rw [← hf.lastCause]; simp
  case irqs => rw [← hf.irqs]; simp
  case deviceInput => rw [← hf.deviceInput]; simp
  case deviceLog => rw [← hf.deviceLog]; simp
  case cfg => rw [← hf.cfg]; simp

/-- The special register that `LDS` has written, at the end of the instruction. -/
theorem special_writeSys_advance {o : SysIdx} {x : Special} (h : sysOf s o = some x) (v : DWord) :
    special (u.writeSys o v).advance x = v :=
  (special_advance _ x).trans (writeSys_eq h v).1

/-- Settles O33: one write of the destination that the table names. -/
theorem ldcAndLdsCopyFromRegister : Obligations.LdcAndLdsCopyFromRegister := by
  intro s m o
  refine ⟨fun d hd => ?_, fun x hx => ?_⟩
  · exact runs_of_exec_eq_finish (exec_ldc m (crDest_eq_some hd).1)
      ⟨holds_writeCtrl hd rfl rfl _, frame_writeCtrl_advance hd rfl rfl (.refl s) _,
        inSequence_advance (by simp) (by simp)⟩
  · exact runs_of_exec_eq_finish (exec_lds m (by rw [sysOk_eq_isSome, hx]; rfl))
      ⟨special_writeSys_advance hx _, frame_writeSys_advance hx (.refl s) _, inSequence_advance (by simp) (by simp)⟩

/-- A read leaves all but the devices alone. -/
theorem afterRead_keeps (s : State) (w : Width) (a : DWord) : (afterRead s w.bytes a).sr = s.sr ∧
    (afterRead s w.bytes a).cfg = s.cfg ∧ (afterRead s w.bytes a).pc = s.pc ∧
    (afterRead s w.bytes a).delayTarget = s.delayTarget ∧
    ∀ r, (afterRead s w.bytes a).physOf r = s.physOf r := by
  rw [afterRead_eq]
  simp

/-- Settles O34: the load, the increment under the old SR, and then the write of the destination. -/
theorem ldcLongAndLdsLongPop : Obligations.LdcLongAndLdsLongPop := by
  intro s m o ha
  obtain ⟨hsr, hcfg, hpc, hdelay, hphys⟩ := afterRead_keeps s .long (s.reg m)
  have hframe := frame_setReg (afterRead s 4 (s.reg m)) m (s.reg m + 4)
  change ∀ r, (afterRead s 4 (s.reg m)).physOf r = s.physOf r at hphys
  rw [hphys m] at hframe
  have hm : ((afterRead s 4 (s.reg m)).setReg m (s.reg m + 4)).readPhys (s.physOf m) = s.reg m + 4 := by
    rw [readPhys_setReg, if_pos (hphys m).symm]
  refine ⟨fun d hd => ?_, fun x hx => ?_⟩
  · have hsr' : ((afterRead s 4 (s.reg m)).setReg m (s.reg m + 4)).sr = s.sr := (setReg_sr _ _ _).trans hsr
    have hcfg' : ((afterRead s 4 (s.reg m)).setReg m (s.reg m + 4)).cfg = s.cfg := (setReg_cfg _ _ _).trans hcfg
    refine runs_withLoad (w := .long) (exec_ldcl m (crDest_eq_some hd).1) ha
      ⟨holds_writeCtrl hd hsr' hcfg' _, fun hne => ?_, frame_writeCtrl_advance hd hsr' hcfg' hframe _,
        inSequence_advance (by simpa using hpc) (by simpa using hdelay)⟩
    have hmem : s.physOf m ∉ d.regs := by
      cases d with
      | reg p => simpa [Dest.regs, eq_comm] using hne
      | sr | special x => simp [Dest.regs]
    exact (advance_readPhys _ _).trans (((keeps_writeCtrl hd hsr' hcfg' _).1 _ hmem).trans hm)
  · exact runs_withLoad (w := .long) (exec_ldsl m (by rw [sysOk_eq_isSome, hx]; rfl)) ha
      ⟨special_writeSys_advance hx _, (advance_readPhys _ _).trans ((writeSys_readPhys _ _ _ _).trans hm),
        frame_writeSys_advance hx hframe _, inSequence_advance (by simpa using hpc) (by simpa using hdelay)⟩

end Sys2Proof.Claim

/-! PROOFS. Control transfer and the delay slot (41_branch.md); the cache and compare-and-exchange (42_cache_atomic.md). -/

namespace Sys2Proof.Claim

open Sys2Proof.Machine

variable {s t u : State} {i : Instr}

/-! Displacements. -/

/-- Twice a signed displacement, as a word (R113). -/
theorem signExtend_mul_two {k : Nat} (d : BitVec k) : d.signExtend 32 * 2 = BitVec.ofInt 32 (2 * d.toInt) := by
  rw [Int.mul_comm, BitVec.ofInt_mul]
  rfl

theorem branchDisp8_eq (d : BitVec 8) : branchDisp8 d = disp8Signed d := signExtend_mul_two d

theorem branchDisp12_eq (d : BitVec 12) : branchDisp12 d = disp12Signed d := signExtend_mul_two d

/-- Twice an unsigned displacement, as a word (R209). -/
theorem setWidth_mul_two (d : BitVec 8) : d.setWidth 32 * 2 = BitVec.ofNat 32 (2 * d.toNat) := by
  have hd := d.isLt
  apply BitVec.eq_of_toNat_eq
  simp
  omega

/-! Branches outside a delay slot. -/

/-- The check of a branch holds outside a delay slot (R201). -/
theorem runs_branch {k : Result} {P : State → Prop} (hd : s.delayTarget = none)
    (he : exec i s = guardLegal (!s.inSlot) i s k) (hk : k = .next t) (hP : P t) : Runs i s P :=
  ⟨t, he.trans ((guardLegal_of_true (by rw [inSlot_none s hd]; rfl)).trans hk), hP⟩

/-- Out of a delay slot the next instruction is a jump of one place (R200). -/
theorem advance_of_none (hd : s.delayTarget = none) : s.advance = s.jump (s.pc + 2) := by
  unfold State.advance State.jump
  rw [hd]

/-- A delayed branch. -/
theorem runs_delayed {target : DWord} (hd : s.delayTarget = none)
    (he : exec i s = guardLegal (!s.inSlot) i s (.next (s.delayedBranch target))) : Runs i s (Delayed s target none) :=
  runs_branch hd he rfl (delayed_delayedBranch s target)

/-- A call. -/
theorem runs_call {target : DWord} (hd : s.delayTarget = none)
    (he : exec i s = guardLegal (!s.inSlot) i s (.next ({ s with pr := s.pc + 4 }.delayedBranch target))) :
    Runs i s (Delayed s target (some (s.pc + 4))) :=
  runs_branch hd he rfl (delayed_call s target _)

/-- Settles O35: the guard holds, and what stands under it is a delayed branch or a call. -/
theorem delayedBranchesAndCalls : Obligations.DelayedBranchesAndCalls := fun _ hd =>
  ⟨fun _ => runs_call hd rfl, fun _ => runs_delayed hd rfl, runs_delayed hd rfl, fun _ => runs_call hd rfl,
    fun _ => runs_delayed hd rfl, fun d => branchDisp12_eq d ▸ runs_delayed hd rfl,
    fun d => branchDisp12_eq d ▸ runs_call hd rfl⟩

/-- A branch without a slot, taken or not. -/
theorem runs_jumps {target : DWord} {k : Result} (hd : s.delayTarget = none)
    (he : exec i s = guardLegal (!s.inSlot) i s k) (hk : k = .next (s.jump target)) : Runs i s (Jumps s target) :=
  runs_branch hd he hk (jumps_jump s target hd)

/-- A branch not taken ends like a jump to the next instruction. -/
theorem finish_of_none (hd : s.delayTarget = none) : finish s = .next (s.jump (s.pc + 2)) :=
  finish_next.mpr (advance_of_none hd).symm

/-- `BT` and `BF` on the condition `b`. -/
theorem conditional_jump (hd : s.delayTarget = none) (b : Bool) (target : DWord) :
    (if b then .next (s.jump target) else finish s) = (.next (s.jump (if b then target else s.pc + 2)) : Result) := by
  cases b
  · exact finish_of_none hd
  · rfl

/-- Settles O36: the target of each, by T and by the reading of the displacement. -/
theorem shortAndConditionalBranches : Obligations.ShortAndConditionalBranches := by
  intro s hd
  refine ⟨runs_jumps hd rfl rfl, fun d => ?_⟩
  rw [← branchDisp8_eq]
  refine ⟨fun hz => ?_, fun hx => ?_, ?_, ?_, fun ht => ?_, fun ht => ?_⟩
  · refine runs_jumps hd rfl ?_
    rw [hz, ← setWidth_mul_two]
    rfl
  · refine runs_jumps hd rfl ?_
    rw [hx]
    rfl
  · exact runs_jumps hd rfl (conditional_jump hd s.t _)
  · refine runs_jumps hd rfl ((conditional_jump hd (!s.t) _).trans ?_)
    rw [show srT s = s.t from rfl]
    cases s.t <;> rfl
  · change s.t = true at ht
    exact ⟨runs_branch hd rfl (by rw [ht]; rfl) (delayed_delayedBranch s _),
      runs_branch hd rfl (by rw [ht]; rfl) (skips_advance s)⟩
  · change s.t = false at ht
    exact ⟨runs_branch hd rfl (by rw [ht]; rfl) (delayed_delayedBranch s _),
      runs_branch hd rfl (by rw [ht]; rfl) (skips_advance s)⟩

/-! The cache (R230, R232). -/

/-- Two addresses stand in one aligned block where their quotients agree. -/
theorem block_iff {b : Nat} (hb : 0 < b) (a u : Nat) :
    (a - a % b ≤ u ∧ u < a - a % b + b) ↔ u / b = a / b := by
  have ha : a - a % b = a / b * b := by
    have := Nat.div_add_mod a b
    rw [Nat.mul_comm]
    omega
  rw [ha, Nat.div_eq_iff hb]
  omega

/-- The units that `ICBI` leaves stale (R86, R232). -/
theorem mem_invalidateLine {k : Nat} (hk : s.cfg.icacheLine = 2 ^ k) (a : DWord) (x : Nat) :
    x ∈ (s.invalidateLine a).icacheStale ↔ x ∈ s.icacheStale ∧ x / 2 ^ k ≠ a.toNat / 2 ^ k := by
  rw [Ne, ← block_iff (Nat.two_pow_pos k), State.invalidateLine, hk]
  simp only [List.mem_filter, Bool.not_eq_true', Bool.and_eq_false_iff, decide_eq_false_iff_not, ← not_and_or]

/-- `ICBI` changes the stale set and nothing else (R232). -/
theorem frame_invalidateLine_advance (s : State) (a : DWord) :
    Frame s (s.invalidateLine a).advance [] 0 [] [] s.icacheStale := by
  constructor
  case special => intro x _; exact special_congr (by simp) x
  case stale =>
    intro x hx
    rw [advance_icacheStale]
    exact ⟨fun h => absurd (List.mem_filter.mp h).1 hx, fun h => absurd h hx⟩
  all_goals simp

/-- Settles O37: nothing happens, and one block leaves the stale set. -/
theorem prefetchAndInvalidate : Obligations.PrefetchAndInvalidate := fun s n =>
  ⟨runs_skips rfl, fun k hk => runs_of_exec_eq_finish rfl
    ⟨fun x => by rw [advance_icacheStale]; exact mem_invalidateLine hk _ x, frame_invalidateLine_advance s _,
      inSequence_advance rfl rfl⟩⟩

/-! Compare-and-exchange (R233). -/

/-- Writing T and then one register is a frame. -/
theorem setsRegT_withT_setReg_advance (s : State) (n : Reg) (v : DWord) (b : Bool) :
    SetsRegT s n v b ((s.withT b).setReg n v).advance := by
  refine ⟨by simp, by simp, ?_, inSequence_advance (by simp) (by simp)⟩
  constructor
  case regs => intro p hp; simp at hp; simp [hp]
  case sr =>
    intro j hj
    have hne : j ≠ 0 := by rintro rfl; simp at hj
    simp [getLsbD_setBit, hne]
  case special => intro x _; exact special_congr (by simp) x
  all_goals simp

/-- What is said of a store depends on the parameters and the state after it. -/
theorem Stored.of_cfg {r : State} {n : Nat} {a v : DWord} (hcfg : r.cfg = s.cfg) (h : Stored r t n a v) :
    Stored s t n a v := by
  unfold Stored OnDevice weightOffset at h ⊢
  rwa [hcfg] at h

/-- What `CAS.L` does once the values match: the store, T, and the old value in the register. -/
theorem exchanged_advance {r : State} {w : Width} {a v x : DWord} {n : Reg} (hcfg : r.cfg = s.cfg)
    (hphys : r.physOf n = s.physOf n) (hpc : r.pc = s.pc) (hdelay : r.delayTarget = s.delayTarget)
    (h : Answered r w.bytes a) :
    let t := (((r.writeMem w a v).withT true).setReg n x).advance
    Stored s t w.bytes a v ∧ t.readPhys (s.physOf n) = x ∧ t.sr.getLsbD 0 = true ∧
      Frame (afterWrite r w.bytes a v) t [s.physOf n] 1 [] (bytesStored s w.bytes a) (unitsTouched w.bytes a) ∧
      InSequence s t := by
  have hbytes : bytesStored s w.bytes a = bytesStored r w.bytes a := by
    unfold bytesStored
    rw [hcfg]
  rw [hbytes, ← hphys]
  refine ⟨(Stored_congr r (by simp) (by simp) (writeMem_stored r w a v h).1).of_cfg hcfg, by simp, by simp,
    frame_writeMem r w a v _ _ h (fun p hp => ?_) (fun j hj => ?_) (special_congr (by simp)) (by simp) (by simp)
      (by simp), inSequence_advance (by simpa using hpc) (by simpa using hdelay)⟩
  · simp at hp
    simp [hp]
  · have hne : j ≠ 0 := by rintro rfl; simp at hj
    simp [getLsbD_setBit, hne]

/-- An access that is answered is answered in every state with the same parameters. -/
theorem Answered.of_cfg {r : State} {n : Nat} {a : DWord} (hcfg : r.cfg = s.cfg) (h : Answered s n a) :
    Answered r n a := by
  unfold Answered at h ⊢
  rwa [hcfg]

/-- Settles O38: the comparison decides whether the store is made. -/
theorem compareAndExchange : Obligations.CompareAndExchange := by
  intro s m n ha
  obtain ⟨-, hcfg, hpc, hdelay, hphys⟩ := afterRead_keeps s .long (s.reg 0)
  refine ⟨fun heq => ?_, fun hne => ?_⟩
  · refine runs_withLoad (w := .long) (exec_casl s m n) ha ?_
    rw [if_pos (show loaded s Width.long.bytes (s.reg 0) = s.reg m from heq)]
    exact exchanged_advance (w := .long) hcfg (hphys n) hpc hdelay (ha.of_cfg hcfg)
  · refine runs_withLoad (w := .long) (exec_casl s m n) ha ?_
    rw [if_neg (show ¬loaded s Width.long.bytes (s.reg 0) = s.reg m from hne)]
    exact setsRegT_withT_setReg_advance _ n _ false

end Sys2Proof.Claim

/-! PROOFS. Data transfer (43_data_transfer.md): loads, stores, the PC-relative forms, push and pop. -/

namespace Sys2Proof.Claim

open Sys2Proof.Machine

variable {s t u : State} {i : Instr}

/-! From the equation of an instruction to its statement, where the access is answered. -/

/-- A load into a register. -/
theorem runs_loadTo {w : Width} {a : DWord} {n : Reg} (he : exec i s = loadTo w a n s) (h : Answered s w.bytes a) :
    Runs i s (Loads s w.bytes a n) := by
  rw [Runs, he]
  exact loadTo_loads s w a n h

/-- A post-increment load. -/
theorem runs_loadIncTo {w : Width} {m n : Reg} (he : exec i s = loadIncTo w m n s) (h : Answered s w.bytes (s.reg m)) :
    Runs i s (LoadsInc s w.bytes m n) := by
  rw [Runs, he]
  exact loadIncTo_loadsInc s w m n h

/-- A store of a register. -/
theorem runs_storeAt {w : Width} {a v : DWord} (he : exec i s = storeAt w a v s) (h : Answered s w.bytes a) :
    Runs i s (Stores s w.bytes a v) := by
  rw [Runs, he]
  exact storeAt_stores s w a v h

/-! Loads and stores. -/

/-- Settles O39: each load by the address its equation has. -/
theorem loadsWithoutUpdate : Obligations.LoadsWithoutUpdate := fun s =>
  ⟨fun _ _ => runs_loadTo (w := .byte) rfl, fun _ _ => runs_loadTo (w := .word) rfl,
    fun _ _ => runs_loadTo (w := .long) rfl, fun _ _ => runs_loadTo (w := .byte) rfl,
    fun _ _ => runs_loadTo (w := .word) rfl, fun _ _ => runs_loadTo (w := .long) rfl,
    fun m d => runs_loadTo (w := .byte) (exec_movbLoadDisp s m d),
    fun m d => runs_loadTo (w := .word) (exec_movwLoadDisp s m d),
    fun m d n => runs_loadTo (w := .long) (exec_movlLoadDisp s m n d),
    fun d => runs_loadTo (w := .byte) (exec_movbLoadGbr s d), fun d => runs_loadTo (w := .word) (exec_movwLoadGbr s d),
    fun d => runs_loadTo (w := .long) (exec_movlLoadGbr s d)⟩

/-- Settles O40: the slot check holds, and the addresses are those of the equations. -/
theorem pcRelativeLoadsAndAddresses : Obligations.PcRelativeLoadsAndAddresses := by
  intro s hd
  have hs := inSlot_none s hd
  refine ⟨fun n => runs_loadTo (w := .byte) (exec_movbLoadPc n hs),
    fun n => runs_loadTo (w := .word) (exec_movwLoadPc n hs), fun n => runs_loadTo (w := .long) (exec_movlLoadPc n hs),
    fun n => runs_setsReg (exec_leab n hs), fun d n => runs_loadTo (w := .word) (exec_movwLoadPcDisp n d hs),
    fun d n => ?_, fun d => ?_⟩ <;> rw [← eaPcLong_eq]
  · exact runs_loadTo (w := .long) (exec_movlLoadPcDisp n d hs)
  · exact runs_setsReg (exec_mova d hs)

/-- Settles O41: the accesses at the address before the increment and after the decrement. -/
theorem autoModifyLoadsAndStores : Obligations.AutoModifyLoadsAndStores := fun _ _ _ =>
  ⟨runs_loadIncTo (w := .byte) rfl, runs_loadIncTo (w := .word) rfl, runs_loadIncTo (w := .long) rfl,
    runs_storeDecAt (w := .byte) rfl, runs_storeDecAt (w := .word) rfl, runs_storeDecAt (w := .long) rfl⟩

/-- Settles O42: each store by the address its equation has. -/
theorem storesWithoutUpdate : Obligations.StoresWithoutUpdate := fun s =>
  ⟨fun _ _ => runs_storeAt (w := .byte) rfl, fun _ _ => runs_storeAt (w := .word) rfl,
    fun _ _ => runs_storeAt (w := .long) rfl, fun _ _ => runs_storeAt (w := .byte) rfl,
    fun _ _ => runs_storeAt (w := .word) rfl, fun _ _ => runs_storeAt (w := .long) rfl,
    fun _ => runs_storeAt (w := .long) rfl, fun n d => runs_storeAt (w := .byte) (exec_movbStoreDisp s n d),
    fun n d => runs_storeAt (w := .word) (exec_movwStoreDisp s n d),
    fun m n d => runs_storeAt (w := .long) (exec_movlStoreDisp s m n d),
    fun d => runs_storeAt (w := .byte) (exec_movbStoreGbr s d),
    fun d => runs_storeAt (w := .word) (exec_movwStoreGbr s d),
    fun d => runs_storeAt (w := .long) (exec_movlStoreGbr s d)⟩

/-- Settles O43: the slot check holds. -/
theorem pcRelativeStores : Obligations.PcRelativeStores := fun s m hd =>
  have hs := inSlot_none s hd
  ⟨runs_storeAt (w := .byte) (exec_movbStorePc m hs), runs_storeAt (w := .word) (exec_movwStorePc m hs),
    runs_storeAt (w := .long) (exec_movlStorePc m hs)⟩

/-! Push, then pop. -/

/-- A frame without SR bits keeps SR. -/
theorem Frame.sr_eq {regs : List PhysReg} {specials : List Special} {bytes : List DWord} {units : List Nat}
    (h : Frame s t regs 0 specials bytes units) : t.sr = s.sr :=
  BitVec.eq_of_getLsbD_eq fun j _ => h.sr j (by simp)

/-- The four bytes of a word make it up (R72). -/
theorem sum_extractLsb' (v : DWord) : (v.extractLsb' (8 * 0) 8).toNat + (v.extractLsb' (8 * 1) 8).toNat * 256 +
    (v.extractLsb' (8 * 2) 8).toNat * 65536 + (v.extractLsb' (8 * 3) 8).toNat * 16777216 = v.toNat := by
  have hv := v.isLt
  simp only [BitVec.extractLsb'_toNat, Nat.shiftRight_eq_div_pow]
  omega

/-- What has been stored in memory is what a load reads there, in either byte order (R72). -/
theorem memValue_of_stored {a v : DWord} (hcfg : t.cfg = s.cfg) (hd : ¬OnDevice s a) (h : Stored s t 4 a v) :
    memValue t 4 a = v.toNat := by
  have hbyte : ∀ k, k < 4 → t.byteAt (a + BitVec.ofNat 32 (weightOffset t 4 k)) = v.extractLsb' (8 * k) 8 := by
    intro k hk
    rw [← h.1 hd k hk, weightOffset, weightOffset, hcfg]
  rw [memValue, show List.range 4 = [0, 1, 2, 3] from rfl, foldr_four, sum_four, hbyte 0 (by decide),
    hbyte 1 (by decide), hbyte 2 (by decide), hbyte 3 (by decide), sum_extractLsb']

/-- A long that has been stored in memory is loaded whole. -/
theorem loaded_of_stored {a v : DWord} (hcfg : t.cfg = s.cfg) (hd : ¬OnDevice s a) (h : Stored s t 4 a v) :
    loaded t 4 a = v := by
  have hd' : ¬t.cfg.kindAt a.toNat = some .device := by rwa [hcfg]
  rw [loaded, valueAt, if_neg hd', memValue_of_stored hcfg hd h]
  simp

/-- Settles O44: the push leaves the bytes, the bank mapping and the address in Rn, and the pop reads them. -/
theorem popLoadsWhatPushStored : Obligations.PopLoadsWhatPushStored := by
  intro s m n k ha hd
  obtain ⟨t, hpush, hstored, htop, hframe, -⟩ := (autoModifyLoadsAndStores s m n).2.2.2.2.2 ha
  obtain ⟨-, hsr, -, -, -, -, -, -, -, hcfg⟩ := afterWrite_keeps s .long (s.reg n - 4) (s.reg m)
  have hcfg' : t.cfg = s.cfg := hframe.cfg.trans hcfg
  have hphys : ∀ r, t.physOf r = s.physOf r := physOf_congr (hframe.sr_eq.trans hsr) hcfg'
  have htop' : t.reg n = s.reg n - 4 := by rw [State.reg, hphys, htop]
  have hanswer : Answered t 4 (t.reg n) := by
    rw [htop']
    exact ha.of_cfg hcfg'
  obtain ⟨u, hpop, hloaded, hstepped, hframe', -⟩ := (autoModifyLoadsAndStores t n k).2.2.1 hanswer
  obtain ⟨hsru, hcfgu, -, -, -⟩ := afterRead_keeps t .long (t.reg n)
  have hphys' : ∀ r, u.physOf r = t.physOf r := physOf_congr (hframe'.sr_eq.trans hsru) (hframe'.cfg.trans hcfgu)
  refine ⟨t, u, hpush, hpop, ?_, fun hne => ?_⟩
  · rw [State.reg, hphys', hloaded, htop']
    exact loaded_of_stored hcfg' hd hstored
  · rw [State.reg, hphys', hstepped (Ne.symm hne), htop']
    exact BitVec.sub_add_cancel _ _

end Sys2Proof.Claim

/-! PROOFS. Multiply and divide step (44_multiply_divide.md sections 1 and 2): MACL, and the step of the division. -/

namespace Sys2Proof.Claim

open Sys2Proof.Machine

variable {s t u : State} {i : Instr}

/-! Products in MACL. -/

/-- Writing MACL is a frame. -/
theorem frame_setMacl_advance (s : State) (v : DWord) :
    Frame s ({ s with macl := v } : State).advance [] 0 [.macl] [] [] := by
  constructor
  case regs => intro p _; cases p <;> simp [State.readPhys]
  case special => intro x hx; cases x <;> simp_all [special]
  case bytes => intro a _; simp [State.byteAt]
  all_goals simp

/-- An instruction whose whole work is to write MACL. -/
theorem runs_setMacl {v : DWord} {P : DWord → Prop} (he : exec i s = finish { s with macl := v }) (hP : P v) :
    Runs i s fun t => P t.macl ∧ Frame s t [] 0 [.macl] [] [] ∧ InSequence s t :=
  runs_of_exec_eq_finish he ⟨by rwa [advance_macl], frame_setMacl_advance s v, inSequence_advance rfl rfl⟩

/-- The product of the unsigned low halves fits in 32 bits (R301). -/
theorem zext16_mul_zext16 (a b : DWord) : (zext16 a * zext16 b).toNat = a.toNat % 2 ^ 16 * (b.toNat % 2 ^ 16) := by
  have ha := Nat.mod_lt a.toNat (Nat.two_pow_pos 16)
  have hb := Nat.mod_lt b.toNat (Nat.two_pow_pos 16)
  have hlt : a.toNat % 2 ^ 16 * (b.toNat % 2 ^ 16) < 2 ^ 32 :=
    Nat.mul_lt_mul'' (c := 2 ^ 16) (d := 2 ^ 16) ha hb
  rw [BitVec.toNat_mul, zext16_eq, zext16_eq, BitVec.toNat_ofNat, BitVec.toNat_ofNat,
    Nat.mod_eq_of_lt (Nat.lt_trans ha (by decide)), Nat.mod_eq_of_lt (Nat.lt_trans hb (by decide)),
    Nat.mod_eq_of_lt hlt]

/-- The product of the signed low halves fits in 32 bits (R302). -/
theorem sext16_mul_sext16 (a b : DWord) :
    (sext16 a * sext16 b).toInt = (a.extractLsb' 0 16).toInt * (b.extractLsb' 0 16).toInt := by
  have hbound : ∀ x : BitVec 16, |x.toInt| ≤ 2 ^ 15 := fun x =>
    abs_le.mpr ⟨by simpa using x.le_toInt, by have := x.toInt_lt; norm_num at this ⊢; omega⟩
  have h := mul_le_mul (hbound (a.extractLsb' 0 16)) (hbound (b.extractLsb' 0 16)) (abs_nonneg _) (by norm_num)
  rw [← abs_mul, abs_le] at h
  rw [sext16_eq, sext16_eq, ← BitVec.ofInt_mul, BitVec.toInt_ofInt, Int.bmod_eq_of_le] <;> omega

/-- Settles O46: one write of MACL each, with the value of the product. -/
theorem multiplyIntoMacl : Obligations.MultiplyIntoMacl := fun s m n =>
  ⟨runs_setMacl (P := fun v => v.toNat = (s.reg n).toNat * (s.reg m).toNat % 2 ^ 32) rfl (BitVec.toNat_mul _ _),
    runs_setMacl (P := fun v => v.toNat = (s.reg n).toNat % 2 ^ 16 * ((s.reg m).toNat % 2 ^ 16)) rfl
      (zext16_mul_zext16 _ _),
    runs_setMacl (P := fun v => v.toInt = ((s.reg n).extractLsb' 0 16).toInt * ((s.reg m).extractLsb' 0 16).toInt) rfl
      (sext16_mul_sext16 _ _)⟩

/-! The flags of the division (R305 to R307). -/

/-- Writing SR is a frame of the bits that change. -/
theorem frame_setSr_advance {x bits : DWord} (h : ∀ j, bits.getLsbD j = false → x.getLsbD j = s.sr.getLsbD j) :
    Frame s ({ s with sr := x } : State).advance [] bits [] [] [] := by
  constructor
  case regs => intro p _; cases p <;> simp [State.readPhys]
  case sr => intro j hj; rw [advance_sr]; exact h j hj
  case special => intro x _; exact special_congr (by simp) x
  case bytes => intro a _; simp [State.byteAt]
  all_goals simp

/-- The frame of what follows a register write is that of the whole with the register. -/
theorem Frame.of_setReg {n : Reg} {v bits : DWord} (h : Frame (s.setReg n v) t [] bits [] [] []) :
    Frame s t [s.physOf n] bits [] [] [] := by
  have h' := frame_setReg s n v
  exact ⟨fun p hp => (h.regs p (by simp)).trans (h'.regs p hp), fun j hj => (h.sr j hj).trans (h'.sr j (by simp)),
    fun x hx => (h.special x hx).trans (h'.special x hx), fun a ha => (h.bytes a ha).trans (h'.bytes a ha),
    fun x hx => (h.stale x hx).trans (h'.stale x hx), h.sleeping.trans h'.sleeping, h.lastCause.trans h'.lastCause,
    h.irqs.trans h'.irqs, h.deviceInput.trans h'.deviceInput, h.deviceLog.trans h'.deviceLog, h.cfg.trans h'.cfg⟩

/-- A write of one bit of a mask leaves the bits outside the mask alone. -/
theorem getLsbD_setBit_outside {x bits : DWord} {k j : Nat} {b : Bool} (hk : bits.getLsbD k = true)
    (hj : bits.getLsbD j = false) : (setBit x k b).getLsbD j = x.getLsbD j := by
  have hne : j ≠ k := by
    rintro rfl
    exact Bool.noConfusion (hk.symm.trans hj)
  rw [getLsbD_setBit _ _ _ _ (BitVec.lt_of_getLsbD hk), if_neg hne]

/-- The writes of M, Q and T (R305, R306). -/
theorem getLsbD_setThree {x bits : DWord} {k₁ k₂ k₃ j : Nat} {b₁ b₂ b₃ : Bool} (h₁ : bits.getLsbD k₁ = true)
    (h₂ : bits.getLsbD k₂ = true) (h₃ : bits.getLsbD k₃ = true) (hj : bits.getLsbD j = false) :
    (setBit (setBit (setBit x k₁ b₁) k₂ b₂) k₃ b₃).getLsbD j = x.getLsbD j := by
  rw [getLsbD_setBit_outside h₃ hj, getLsbD_setBit_outside h₂ hj, getLsbD_setBit_outside h₁ hj]

/-- The two forms of a flag as a number. -/
theorem bit_eq_flag (b : Bool) : bit b = flag b := by cases b <;> rfl

/-- Settles O48: the flag writes one by one, and `divStep_spec` for the value and the carry. -/
theorem divideStepInstructions : Obligations.DivideStepInstructions := by
  intro s m n
  refine ⟨runs_of_exec_eq_finish rfl ⟨?_, ?_, ?_,
      frame_setSr_advance fun _ hj => getLsbD_setThree (by decide) (by decide) (by decide) hj,
      inSequence_advance rfl rfl⟩,
    runs_of_exec_eq_finish rfl ⟨?_, ?_, ?_,
      frame_setSr_advance fun _ hj => getLsbD_setThree (by decide) (by decide) (by decide) hj,
      inSequence_advance rfl rfl⟩, ?_⟩
  case refine_7 =>
    obtain ⟨c, hsub, hadd, hq, ht⟩ := divStep_spec (s.reg n) (s.reg m) s.q s.m s.t
    simp only [bit_eq_flag] at hsub hadd
    refine runs_of_exec_eq_finish rfl ⟨_, c, hsub, hadd, ?_, ?_, ?_,
      (frame_setSr_advance fun _ hj => (getLsbD_setBit_outside (by decide) hj).trans
        (getLsbD_setBit_outside (by decide) hj)).of_setReg, inSequence_advance (by simp) (by simp)⟩
    · simp
    · simpa [getLsbD_setBit, State.m] using hq
    · simpa [getLsbD_setBit, State.m] using ht
  all_goals simp [BitVec.msb_eq_getLsbD_last]

/-! One step of an unsigned division. -/

/-- The register names go by the bank mapping, so they keep their meaning where SR.MD and SR.RB are kept (R22). -/
theorem Frame.physOf_eq {regs : List PhysReg} {bits : DWord} {specials : List Special} {bytes : List DWord}
    {units : List Nat} (h : Frame s t regs bits specials bytes units) (h29 : bits.getLsbD 29 = false)
    (h30 : bits.getLsbD 30 = false) (r : Reg) : t.physOf r = s.physOf r := by
  unfold State.physOf State.bankBMapped State.md State.rb
  rw [h.sr 29 h29, h.sr 30 h30, h.cfg]

theorem flag_true : flag true = 1 := rfl

theorem flag_false : flag false = 0 := rfl

theorem flag_le (b : Bool) : flag b ≤ 1 := by cases b <;> decide

/-- The sign bit by the unsigned value. -/
theorem getLsbD_31_eq (v : DWord) : v.getLsbD 31 = decide (2 ^ 31 ≤ v.toNat) :=
  (BitVec.msb_eq_getLsbD_last v).symm.trans (BitVec.msb_eq_decide v)

/-- The partial remainder after a step, with `k` shifted in and `c` the carry that `divStep_spec` gives (R307). -/
theorem nonRestoring_remainder {x d v k : Nat} {q c : Bool} (hx : x < 2 ^ 32) (hv : v < 2 ^ 32) (hk : k ≤ 1)
    (hlow : -(d : Int) ≤ x - 2 ^ 32 * flag q) (hhigh : (x : Int) - 2 ^ 32 * flag q < d)
    (hsub : q = false → (v : Int) - 2 ^ 32 * flag c = ((2 * x + k) % 2 ^ 32 : Nat) - (d : Int))
    (hadd : q ≠ false → v + 2 ^ 32 * flag c = (2 * x + k) % 2 ^ 32 + d) :
    (v : Int) - 2 ^ 32 * flag (decide (2 ^ 31 ≤ x) ^^ c) =
      2 * (x - 2 ^ 32 * flag q : Int) + k + (if q then (d : Int) else -(d : Int)) := by
  by_cases hmsb : 2 ^ 31 ≤ x
  · rw [decide_eq_true hmsb]
    cases q <;> cases c <;> simp [flag_true, flag_false] at hsub hadd hlow hhigh ⊢ <;> omega
  · rw [decide_eq_false hmsb]
    cases q <;> cases c <;> simp [flag_true, flag_false] at hsub hadd hlow hhigh ⊢ <;> omega

/-- The partial remainder stays between the divisor and its negative (R307). -/
theorem nonRestoring_bounds {d k : Nat} {p p' : Int} {q : Bool} (hk : k ≤ 1) (hlow : -(d : Int) ≤ p) (hhigh : p < d)
    (hq : q = true ↔ p < 0) (h : p' = 2 * p + k + (if q then (d : Int) else -(d : Int))) : -(d : Int) ≤ p' ∧ p' < d := by
  cases q <;> simp at hq h <;> omega

/-- The flag that a signed 33-bit value has as its sign. -/
theorem eq_true_iff_sub_flag_neg {x : Nat} (hx : x < 2 ^ 32) (q : Bool) :
    q = true ↔ (x : Int) - 2 ^ 32 * flag q < 0 := by
  cases q <;> simp [flag_true, flag_false]
  omega

/-- Settles O49: the equation of the remainder, and from it the bounds and T. -/
theorem divideStepIsNonRestoring : Obligations.DivideStepIsNonRestoring := by
  intro s m n _ hm hlow hhigh
  obtain ⟨t, he, v, c, hsub, hadd, hval, hq, ht, hframe, -⟩ := (divideStepInstructions s m n).2.2
  rw [hm] at hsub hadd hq ht
  rw [Bool.xor_false, getLsbD_31_eq] at hq
  have hv : t.reg n = v := by rw [State.reg, hframe.physOf_eq (by decide) (by decide), hval]
  have hrem := nonRestoring_remainder (s.reg n).isLt v.isLt (flag_le _) hlow hhigh hsub hadd
  rw [← hq, ← hv] at hrem
  obtain ⟨hlow', hhigh'⟩ :=
    nonRestoring_bounds (flag_le _) hlow hhigh (eq_true_iff_sub_flag_neg (s.reg n).isLt _) hrem
  refine ⟨t, he, hrem, hlow', hhigh', ?_⟩
  rw [srT, ht, decide_eq_true_iff, ← Int.not_lt, ← eq_true_iff_sub_flag_neg (t.reg n).isLt, Bool.not_eq_true]

end Sys2Proof.Claim

/-! PROOFS. Values and flags: logic and compare (45_logic_compare.md), arithmetic and rearrangement (46_arithmetic.md),
shifts and rotates (47_shift.md). -/

namespace Sys2Proof.Claim

open Sys2Proof.Machine

variable {s t u : State} {i : Instr} {n : Reg} {v x : DWord} {b c : Bool}

/-! From the equation of an instruction to its statement, where the statement writes the value in its own terms. -/

theorem runs_setsReg_eq (he : exec i s = finish (s.setReg n v)) (hv : v = x) : Runs i s (SetsReg s n x) :=
  hv ▸ runs_setsReg he

theorem runs_setsT_eq (he : exec i s = finish (s.withT b)) (hb : b = c) : Runs i s (SetsT s c) := hb ▸ runs_setsT he

theorem runs_setsRegT (he : exec i s = finish ((s.setReg n v).withT b)) : Runs i s (SetsRegT s n v b) :=
  runs_of_exec_eq_finish he (setsRegT_advance s n v b)

theorem runs_setsRegT_eq (he : exec i s = finish ((s.setReg n v).withT b)) (hv : v = x) (hb : b = c) :
    Runs i s (SetsRegT s n x c) := hv ▸ hb ▸ runs_setsRegT he

/-! Logic (R320, R325 to R328). -/

/-- No bit is 1 in both. -/
theorem and_beq_zero {w : Nat} (a b : BitVec w) :
    (a &&& b == 0) = (List.range w).all fun k => !(a.getLsbD k && b.getLsbD k) := by
  rw [Bool.eq_iff_iff, beq_iff_eq, BitVec.eq_of_getLsbD_eq_iff]
  simp only [BitVec.getLsbD_and, BitVec.ofNat_eq_ofNat, BitVec.getLsbD_zero, List.all_eq_true, List.mem_range,
    Bool.not_eq_true']

/-- No bit is 1 in both, where one is an immediate (R325). -/
theorem and_immUnsigned_beq_zero (a : DWord) (j : BitVec 8) :
    (a &&& immUnsigned j == 0) = (List.range 8).all fun k => !(a.getLsbD k && j.getLsbD k) := by
  rw [and_beq_zero, Bool.eq_iff_iff]
  simp only [List.all_eq_true, List.mem_range, immUnsigned, BitVec.getLsbD_setWidth]
  refine ⟨fun h k hk => ?_, fun h k hk => ?_⟩
  · simpa [show k < 32 by omega] using h k (by omega)
  · by_cases hk8 : k < 8
    · simpa [hk] using h k hk8
    · simp [BitVec.getLsbD_of_ge j k (by omega)]

/-- An immediate as the word of its value (R113). -/
theorem immUnsigned_eq (j : BitVec 8) : immUnsigned j = BitVec.ofNat 32 j.toNat := (BitVec.ofNat_toNat 32 j).symm

/-- A word is that of its value. -/
theorem eq_ofNat_toNat (v : DWord) : v = BitVec.ofNat 32 v.toNat := by rw [BitVec.ofNat_toNat, BitVec.setWidth_eq]

/-- Settles O51: the flag over the bits, and the operations on the values. -/
theorem testsAndImmediateLogic : Obligations.TestsAndImmediateLogic := fun s =>
  ⟨fun _ _ => runs_setsT_eq rfl (and_beq_zero _ _), fun j =>
    ⟨runs_setsT_eq rfl (and_immUnsigned_beq_zero _ _),
      runs_setsReg_eq rfl (by rw [BitVec.ofNat_and, ← eq_ofNat_toNat, immUnsigned_eq]),
      runs_setsReg_eq rfl (by rw [BitVec.ofNat_xor, ← eq_ofNat_toNat, immUnsigned_eq]),
      runs_setsReg_eq rfl (by rw [BitVec.ofNat_or, ← eq_ofNat_toNat, immUnsigned_eq])⟩⟩

/-! Compares (R329 to R337). -/

/-- A word is not negative where its sign bit is 0 (R335). -/
theorem nonneg_eq_not_sign (v : DWord) : decide (0 ≤ v.toInt) = !v.getLsbD 31 := by
  rw [← BitVec.msb_eq_getLsbD_last, BitVec.msb_eq_toInt, ← decide_not]
  simp

/-- A word is a signed immediate where their values are equal (R337). -/
theorem beq_immSigned (v : DWord) (j : BitVec 8) : (v == immSigned j) = decide (v.toInt = j.toInt) := by
  rw [Bool.eq_iff_iff, beq_iff_eq, decide_eq_true_iff, ← BitVec.toInt_inj, immSigned,
    BitVec.toInt_signExtend_of_le (by decide)]

/-- Settles O52: each flag is the relation of its compare. -/
theorem comparesWriteOnlyT : Obligations.ComparesWriteOnlyT := fun _ =>
  ⟨fun _ _ => ⟨runs_setsT rfl, runs_setsT rfl, runs_setsT rfl, runs_setsT rfl, runs_setsT rfl,
      runs_setsT_eq rfl (someByteEqual_eq _ _)⟩,
    fun _ => ⟨runs_setsT_eq rfl (nonneg_eq_not_sign _), runs_setsT rfl⟩, fun _ => runs_setsT_eq rfl (beq_immSigned _ _)⟩

/-! Arithmetic (R350 to R359). -/

/-- A sum by the values (R353). -/
theorem add_eq_ofNat (a b : DWord) : a + b = BitVec.ofNat 32 (a.toNat + b.toNat) := by
  rw [BitVec.ofNat_add, ← eq_ofNat_toNat, ← eq_ofNat_toNat]

/-- A difference by the values (R350, R357, R359). -/
theorem sub_eq_ofInt (a b : DWord) : a - b = BitVec.ofInt 32 (a.toNat - b.toNat) := by
  rw [sub_eq_add_neg, sub_eq_add_neg, BitVec.ofInt_add, BitVec.ofInt_neg, BitVec.ofInt_natCast, BitVec.ofInt_natCast,
    ← eq_ofNat_toNat, ← eq_ofNat_toNat]

/-- A decrement gives 0 at 1 and nowhere else (R359). -/
theorem sub_one_beq_zero (v : DWord) : (v - 1 == 0) = decide (v = 1) := by
  rw [Bool.eq_iff_iff, beq_iff_eq, decide_eq_true_iff]
  exact sub_eq_zero

/-- Settles O53: the values as sums and differences. -/
theorem addSubtractNegateDecrement : Obligations.AddSubtractNegateDecrement := fun _ _ =>
  ⟨fun m => ⟨runs_setsReg_eq rfl (add_eq_ofNat _ _), runs_setsReg_eq rfl (sub_eq_ofInt _ _),
      runs_setsReg_eq rfl ((sub_eq_ofInt 0 _).trans (by simp))⟩,
    runs_setsRegT_eq rfl (sub_eq_ofInt _ 1) (sub_one_beq_zero _)⟩

/-- Settles O54: `addCarry_exact` and `subBorrow_exact` for the value and the flag. -/
theorem carryArithmeticIsExact : Obligations.CarryArithmeticIsExact := by
  intro s m n
  refine ⟨runs_of_exec_eq_finish rfl ⟨_, _, setsRegT_advance s n _ _, ?_⟩,
    runs_of_exec_eq_finish rfl ⟨_, _, setsRegT_advance s n _ _, ?_⟩,
    runs_of_exec_eq_finish rfl ⟨_, _, setsRegT_advance s n _ _, ?_⟩⟩
  · exact addCarry_exact _ _ s.t
  · exact subBorrow_exact _ _ s.t
  · exact subBorrow_exact 0 _ s.t

/-- Settles O55: the wrapped value, and the overflow by comparison with the exact one. -/
theorem overflowArithmeticReportsInT : Obligations.OverflowArithmeticReportsInT := fun _ _ _ =>
  ⟨runs_setsRegT_eq rfl (addOverflow_value _ _) (addOverflow_flag _ _),
    runs_setsRegT_eq rfl (subOverflow_value _ _) (subOverflow_flag _ _)⟩

/-! Rearrangement (R364 to R366). -/

/-- Settles O57: the parts of what the instructions put together. -/
theorem swapsAndExtract : Obligations.SwapsAndExtract := fun s m n =>
  ⟨runs_setsReg_of rfl ⟨BitVec.extractLsb'_append_eq_right,
      (BitVec.extractLsb'_append_eq_of_le (by decide)).trans BitVec.extractLsb'_append_eq_right,
      (BitVec.extractLsb'_append_eq_of_le (by decide)).trans BitVec.extractLsb'_append_eq_left⟩,
    runs_setsReg_of rfl ⟨BitVec.extractLsb'_append_eq_right, BitVec.extractLsb'_append_eq_left⟩,
    runs_setsReg_of rfl ⟨BitVec.extractLsb'_append_eq_left, BitVec.extractLsb'_append_eq_right⟩⟩

/-! Shifts (R380 to R398). -/

/-- A shift left by one doubles (R380, R381). -/
theorem shiftLeft_one_eq (v : DWord) : v <<< 1 = BitVec.ofNat 32 (2 * v.toNat) := by
  rw [shiftLeft_eq_ofNat, Nat.mul_comm, Nat.pow_one]

/-- The top bit, moved to the bottom. -/
theorem ushiftRight_31_eq (v : DWord) : v >>> 31 = bitDWord v.msb := by
  have hv := v.isLt
  rw [BitVec.msb_eq_decide, shiftRight_eq_ofNat]
  by_cases h : 2 ^ 31 ≤ v.toNat
  · rw [decide_eq_true h, show v.toNat / 2 ^ 31 = 1 by omega]
    rfl
  · rw [decide_eq_false h, show v.toNat / 2 ^ 31 = 0 by omega]
    rfl

/-- The bottom bit, moved to the top. -/
theorem shiftLeft_31_eq (v : DWord) : v <<< 31 = bitDWord (v.getLsbD 0) <<< 31 := by
  refine BitVec.eq_of_getLsbD_eq fun j hj => ?_
  rw [BitVec.getLsbD_shiftLeft, BitVec.getLsbD_shiftLeft]
  by_cases h : j < 31
  · simp [h]
  · rw [show j - 31 = 0 by omega]
    cases v.getLsbD 0 <;> simp [bitDWord]

/-- A rotate left puts the top bit at the bottom (R384). -/
theorem rotateLeft_one_eq (v : DWord) : (v <<< 1) ||| bitDWord v.msb = v.rotateLeft 1 := by
  rw [BitVec.rotateLeft_def, ← ushiftRight_31_eq]

/-- A rotate right puts the bottom bit at the top (R385). -/
theorem rotateRight_one_eq (v : DWord) : (v >>> 1) ||| (bitDWord (v.getLsbD 0) <<< 31) = v.rotateRight 1 := by
  rw [BitVec.rotateRight_def, ← shiftLeft_31_eq]

/-- A rotate left through T shifts T in (R386). -/
theorem shiftIn_eq_ofNat (v : DWord) (b : Bool) : (v <<< 1) ||| bitDWord b = BitVec.ofNat 32 (2 * v.toNat + flag b) :=
  BitVec.eq_of_toNat_eq ((shiftIn_toNat v b).trans (BitVec.toNat_ofNat _ _).symm)

/-- Settles O58: the values as numbers, and the bit that leaves. -/
theorem oneBitShiftsAndRotates : Obligations.OneBitShiftsAndRotates := fun s n =>
  have htop : (s.reg n).msb = (s.reg n).getLsbD 31 := BitVec.msb_eq_getLsbD_last _
  ⟨runs_setsRegT_eq rfl (shiftLeft_one_eq _) htop, runs_setsRegT_eq rfl (shiftLeft_one_eq _) htop,
    runs_setsRegT_eq rfl (shiftRight_eq_ofNat _ 1) rfl, runs_setsRegT_eq rfl (sshiftRight_eq_ofInt _ 1) rfl,
    runs_setsRegT_eq rfl (rotateLeft_one_eq _) htop, runs_setsRegT_eq rfl (rotateRight_one_eq _) rfl,
    runs_setsRegT_eq rfl (shiftIn_eq_ofNat _ s.t) htop, runs_setsRegT_eq rfl (shiftInTop_eq _ s.t) rfl⟩

/-- Settles O59: the shifts by a constant as products and quotients. -/
theorem fixedShifts : Obligations.FixedShifts := fun _ _ =>
  ⟨runs_setsReg_eq rfl (shiftLeft_eq_ofNat _ 2), runs_setsReg_eq rfl (shiftLeft_eq_ofNat _ 8),
    runs_setsReg_eq rfl (shiftLeft_eq_ofNat _ 16), runs_setsReg_eq rfl (shiftLeft_eq_ofNat _ 4),
    runs_setsReg_eq rfl (shiftRight_eq_ofNat _ 2), runs_setsReg_eq rfl (shiftRight_eq_ofNat _ 8),
    runs_setsReg_eq rfl (shiftRight_eq_ofNat _ 16), runs_setsReg_eq rfl (shiftRight_eq_ofNat _ 4)⟩

/-- Settles O60: the sign of the amount decides the direction, and the laws of the two shifts give the value. -/
theorem dynamicShifts : Obligations.DynamicShifts := fun _ _ _ =>
  ⟨fun h => ⟨runs_setsReg_eq rfl (shiftArithmetic_left _ _ h), runs_setsReg_eq rfl (shiftLogical_left _ _ h)⟩,
    fun h => ⟨runs_setsReg_eq rfl (shiftArithmetic_right _ _ h), runs_setsReg_eq rfl (shiftLogical_right _ _ h)⟩⟩

end Sys2Proof.Claim
